-- ==== Sys2Proof/Word.lean ====
section
/-! DEFINITION. The widths the spec gives its values (00_scope.md R8, R10, R16; 30_encoding.md R60, R61). -/
namespace Sys2Proof

/-- A register byte of the device, and an 8-bit operand (R18, R38, R62). -/
abbrev Byte := BitVec 8

/-- One axis's unsigned raw magnitude (R92). -/
abbrev Raw := BitVec 18

/-- One axis's field strength in Gauss, signed `Q4.14` (R96). -/
abbrev Gauss := BitVec 18

/-- One axis's field strength in microtesla, signed `Q11.12` (R97). -/
abbrev MicroTesla := BitVec 23

end Sys2Proof
end

