-- ==== Sys2Proof/Syntax.lean ====
section
/-! DEFINITION. Registers, fields, operations and requests, by the spec's names (10_state.md R18, R23 to R27;
30_encoding.md R59 to R65). -/
namespace Sys2Proof

/-- The four control registers, each shadowed (R18). -/
inductive Ctrl where
  | ctrl0 | ctrl1 | ctrl2 | ctrl3
  deriving DecidableEq, Repr

/-- The registers a command word can name (R64). -/
inductive Reg where
  | ctrl (c : Ctrl)
  | status
  deriving DecidableEq, Repr

/-- The device's registers as the spec names them (R33): seven output registers, the temperature register that no
operation reads, STATUS, the control registers and the identity register. -/
inductive DeviceRegister where
  | output (i : Fin 7)
  | temperature
  | status
  | control (c : Ctrl)
  | identity
  deriving DecidableEq, Repr

/-- The 21 named fields of R65. -/
inductive Field where
  -- CTRL0 (R23)
  | tmM | tmT | intMeasDoneEn | set | reset | autoSrEn | otpRead
  -- CTRL1 (R24)
  | bandwidth | xInhibit | yzInhibit | swReset
  -- CTRL2 (R25)
  | cmFreq | cmmEn | prdSet | enPrdSet
  -- CTRL3 (R26)
  | stEnp | stEnm | spi3w
  -- STATUS (R27)
  | measMDone | measTDone | otpRdDone
  deriving DecidableEq, Repr

/-- A row of R65's table: offset, width, self-clearing, and the enumerated domain (`none` for the table's dash). -/
structure FieldInfo where
  off : Nat
  width : Nat
  selfClearing : Bool
  domain : Option (List Nat)
  deriving DecidableEq, Repr

/-- The three axes, in lane order (R61: index 0 X, 1 Y, 2 Z). -/
inductive Axis where
  | x | y | z
  deriving DecidableEq, Repr

/-- One value per axis. -/
structure Axes (α : Type) where
  x : α
  y : α
  z : α
  deriving DecidableEq, Repr

/-- A request (R59, R60): the command word and the operand that only TO_PHYSICAL reads. -/
structure Request where
  cmd : BitVec 32
  rawIn : BitVec 54
  deriving DecidableEq, Repr

/-- The eight operations of R63, without operands. -/
inductive Opcode where
  | setField | getField | statusGet | deviceIdGet | fieldEncode | fieldDecode | readRaw | toPhysical
  deriving DecidableEq, Repr

/-- One constructor per row of spec/opcode_table.json. -/
inductive Instr where
  /-- SET_FIELD (R79). -/
  | setField (f : Field) (val : Byte)
  /-- GET_FIELD (R80). -/
  | getField (f : Field)
  /-- STATUS_GET (R81). -/
  | statusGet
  /-- DEVICE_ID_GET (R82). -/
  | deviceIdGet
  /-- FIELD_ENCODE (R89). -/
  | fieldEncode (f : Field) (byte val : Byte)
  /-- FIELD_DECODE (R90). -/
  | fieldDecode (f : Field) (byte : Byte)
  /-- READ_RAW (R94). -/
  | readRaw
  /-- TO_PHYSICAL (R98), with the three lanes of `raw_in` (R70). -/
  | toPhysical (rx ry rz : Raw)
  deriving DecidableEq, Repr

/-- Why the decoder rejects a command word (R71; causes 1 to 3 of R103). Every one gets the InvalidArgument response. -/
inductive Illegal where
  /-- Cause 1: OP is 0x0 or 0x9 to 0xF. -/
  | reservedOpcode
  /-- Cause 2: RSV, or a field the operation does not use, is nonzero (R67). -/
  | mustBeZero
  /-- Cause 3: the (REG, FLD) pair is unknown, or the operation does not accept it (R66). -/
  | unacceptedPair
  deriving DecidableEq, Repr

end Sys2Proof
end

