-- ==== Sys2Proof/Machine/Fields.lean ====
section
/-! DEFINITION. The register and field tables: codes, addresses, and the layout of every field (30_encoding.md R64, R65;
10_state.md R18, R23 to R29). -/
namespace Sys2Proof

/-- The REG code of a control register (R64). -/
def Ctrl.code : Ctrl → BitVec 3
  | .ctrl0 => 0
  | .ctrl1 => 1
  | .ctrl2 => 2
  | .ctrl3 => 3

/-- The device address of a control register (R18): `0x09 + REG`. -/
def Ctrl.address : Ctrl → Byte
  | .ctrl0 => 0x09
  | .ctrl1 => 0x0A
  | .ctrl2 => 0x0B
  | .ctrl3 => 0x0C

/-- The address of a device register (R33). -/
def DeviceRegister.address : DeviceRegister → Byte
  | .output i => BitVec.ofNat 8 i.val
  | .temperature => 0x07
  | .status => 0x08
  | .control c => c.address
  | .identity => 0x2F

/-- The REG code of a register (R64). -/
def Reg.code : Reg → BitVec 3
  | .ctrl c => c.code
  | .status => 4

/-- The register a field belongs to (R65, column REG). -/
def Field.reg : Field → Reg
  | .tmM | .tmT | .intMeasDoneEn | .set | .reset | .autoSrEn | .otpRead => .ctrl .ctrl0
  | .bandwidth | .xInhibit | .yzInhibit | .swReset => .ctrl .ctrl1
  | .cmFreq | .cmmEn | .prdSet | .enPrdSet => .ctrl .ctrl2
  | .stEnp | .stEnm | .spi3w => .ctrl .ctrl3
  | .measMDone | .measTDone | .otpRdDone => .status

/-- The control register a field belongs to, if it is shadowed (R64: STATUS is not). -/
def Field.ctrl? (f : Field) : Option Ctrl :=
  match f.reg with
  | .ctrl c => some c
  | .status => none

/-- The field is in a shadowed register: REG ≤ 3 (R66). -/
def Field.shadowed (f : Field) : Bool := f.ctrl?.isSome

/-- The field's number in its register (R65, column FLD). -/
def Field.index : Field → BitVec 3
  | .tmM => 0
  | .tmT => 1
  | .intMeasDoneEn => 2
  | .set => 3
  | .reset => 4
  | .autoSrEn => 5
  | .otpRead => 6
  | .bandwidth => 0
  | .xInhibit => 1
  | .yzInhibit => 2
  | .swReset => 3
  | .cmFreq => 0
  | .cmmEn => 1
  | .prdSet => 2
  | .enPrdSet => 3
  | .stEnp => 0
  | .stEnm => 1
  | .spi3w => 2
  | .measMDone => 0
  | .measTDone => 1
  | .otpRdDone => 2

/-- `FieldInfo(REG, FLD)`: offset, width, self-clearing, enumerated domain (R65). -/
def Field.info : Field → FieldInfo
  | .tmM => ⟨0, 1, true, none⟩
  | .tmT => ⟨1, 1, true, none⟩
  | .intMeasDoneEn => ⟨2, 1, false, none⟩
  | .set => ⟨3, 1, true, none⟩
  | .reset => ⟨4, 1, true, none⟩
  | .autoSrEn => ⟨5, 1, false, none⟩
  | .otpRead => ⟨6, 1, false, none⟩
  | .bandwidth => ⟨0, 2, false, some [0, 1, 2, 3]⟩
  | .xInhibit => ⟨2, 1, false, none⟩
  | .yzInhibit => ⟨3, 2, false, none⟩
  | .swReset => ⟨7, 1, true, none⟩
  | .cmFreq => ⟨0, 3, false, some [0, 1, 2, 3]⟩
  | .cmmEn => ⟨3, 1, false, none⟩
  | .prdSet => ⟨4, 3, false, none⟩
  | .enPrdSet => ⟨7, 1, false, none⟩
  | .stEnp => ⟨2, 1, false, none⟩
  | .stEnm => ⟨3, 1, false, none⟩
  | .spi3w => ⟨6, 1, false, none⟩
  | .measMDone => ⟨0, 1, false, none⟩
  | .measTDone => ⟨1, 1, false, none⟩
  | .otpRdDone => ⟨4, 1, false, none⟩

/-- The rows of R65, in its order. -/
def Field.all : List Field :=
  [.tmM, .tmT, .intMeasDoneEn, .set, .reset, .autoSrEn, .otpRead,
   .bandwidth, .xInhibit, .yzInhibit, .swReset,
   .cmFreq, .cmmEn, .prdSet, .enPrdSet,
   .stEnp, .stEnm, .spi3w,
   .measMDone, .measTDone, .otpRdDone]

/-- The field a (REG, FLD) pair names; `none` for an unknown pair (R65). -/
def Field.ofCode (reg fld : BitVec 3) : Option Field :=
  Field.all.find? fun f => f.reg.code == reg && f.index == fld

/-- The lane index of an axis (R61). -/
def Axis.index : Axis → Fin 3
  | .x => 0
  | .y => 1
  | .z => 2

/-- One axis's value. -/
def Axes.get {α : Type} (v : Axes α) : Axis → α
  | .x => v.x
  | .y => v.y
  | .z => v.z

/-- The same function in every lane (R99). -/
def Axes.ofFn {α : Type} (g : Axis → α) : Axes α := ⟨g .x, g .y, g .z⟩

end Sys2Proof
end

