-- ==== Sys2Proof/WellFormed.lean ====
section
/-! DEFINITION. Which instructions a command word can spell. -/
namespace Sys2Proof

/-- SET_FIELD and GET_FIELD accept a field only if its register has REG ≤ 3 (R66: STATUS has no shadow and is
read-only). Every other operand is admitted at every value: the types already give its width. -/
def Instr.wellFormed : Instr → Bool
  | .setField f _ => f.shadowed
  | .getField f => f.shadowed
  | .statusGet => true
  | .deviceIdGet => true
  | .fieldEncode _ _ _ => true
  | .fieldDecode _ _ => true
  | .readRaw => true
  | .toPhysical _ _ _ => true

end Sys2Proof
end

