-- ==== Sys2Proof/Decode.lean ====
section
/-! DEFINITION. The command word: its fields (30_encoding.md R62), the decoder, total on every request (R71), and the
encoder (R62, R67, R70). -/
namespace Sys2Proof

/-- `OP`, bits 31:28 (R62). -/
def cmdOp (cmd : BitVec 32) : BitVec 4 := cmd.extractLsb' 28 4

/-- `REG`, bits 27:25 (R62). -/
def cmdReg (cmd : BitVec 32) : BitVec 3 := cmd.extractLsb' 25 3

/-- `FLD`, bits 24:22 (R62). -/
def cmdFld (cmd : BitVec 32) : BitVec 3 := cmd.extractLsb' 22 3

/-- `RSV`, bits 21:16 (R62). -/
def cmdRsv (cmd : BitVec 32) : BitVec 6 := cmd.extractLsb' 16 6

/-- `BYTE`, bits 15:8 (R62). -/
def cmdByte (cmd : BitVec 32) : Byte := cmd.extractLsb' 8 8

/-- `VAL`, bits 7:0 (R62). -/
def cmdVal (cmd : BitVec 32) : Byte := cmd.extractLsb' 0 8

/-- `raw_in[53:36]` (R60, R70). -/
def rawInX (r : BitVec 54) : Raw := r.extractLsb' 36 18

/-- `raw_in[35:18]` (R60, R70). -/
def rawInY (r : BitVec 54) : Raw := r.extractLsb' 18 18

/-- `raw_in[17:0]` (R60, R70). -/
def rawInZ (r : BitVec 54) : Raw := r.extractLsb' 0 18

/-- The OP code of an operation (R63). -/
def Opcode.code : Opcode → BitVec 4
  | .setField => 0x1
  | .getField => 0x2
  | .statusGet => 0x3
  | .deviceIdGet => 0x4
  | .fieldEncode => 0x5
  | .fieldDecode => 0x6
  | .readRaw => 0x7
  | .toPhysical => 0x8

/-- The operation an OP code selects; `none` for a reserved one (R63). -/
def Opcode.ofCode (op : BitVec 4) : Option Opcode :=
  match op.toNat with
  | 1 => some .setField
  | 2 => some .getField
  | 3 => some .statusGet
  | 4 => some .deviceIdGet
  | 5 => some .fieldEncode
  | 6 => some .fieldDecode
  | 7 => some .readRaw
  | 8 => some .toPhysical
  | _ => none

/-- `MATCH[OP]` (R71). -/
def Opcode.matchWord : Opcode → BitVec 32
  | .setField => 0x10000000
  | .getField => 0x20000000
  | .statusGet => 0x30000000
  | .deviceIdGet => 0x40000000
  | .fieldEncode => 0x50000000
  | .fieldDecode => 0x60000000
  | .readRaw => 0x70000000
  | .toPhysical => 0x80000000

/-- `MASK[OP]` (R71): the bits that are fixed, the must-be-0 fields of R67 among them. -/
def Opcode.maskWord : Opcode → BitVec 32
  | .setField => 0xF03FFF00
  | .getField => 0xF03FFFFF
  | .statusGet => 0xFFFFFFFF
  | .deviceIdGet => 0xFFFFFFFF
  | .fieldEncode => 0xF03F0000
  | .fieldDecode => 0xF03F00FF
  | .readRaw => 0xFFFFFFFF
  | .toPhysical => 0xFFFFFFFF

/-- Whether an operation that uses REG and FLD accepts the field they name (R66). -/
def Opcode.accepts : Opcode → Field → Bool
  | .setField, f => f.shadowed
  | .getField, f => f.shadowed
  | _, _ => true

/-- The field operand: `Accepted(OP, REG, FLD)` of R71 (R66). -/
def fieldOperand (op : Opcode) (cmd : BitVec 32) : Except Illegal Field :=
  match Field.ofCode (cmdReg cmd) (cmdFld cmd) with
  | none => .error .unacceptedPair
  | some f => if op.accepts f then .ok f else .error .unacceptedPair

/-- The operands of an accepted word (R67, R69, R70). -/
def decodeOperands (op : Opcode) (q : Request) : Except Illegal Instr :=
  match op with
  | .setField => (fieldOperand op q.cmd).map fun f => .setField f (cmdVal q.cmd)
  | .getField => (fieldOperand op q.cmd).map fun f => .getField f
  | .statusGet => .ok .statusGet
  | .deviceIdGet => .ok .deviceIdGet
  | .fieldEncode => (fieldOperand op q.cmd).map fun f => .fieldEncode f (cmdByte q.cmd) (cmdVal q.cmd)
  | .fieldDecode => (fieldOperand op q.cmd).map fun f => .fieldDecode f (cmdByte q.cmd)
  | .readRaw => .ok .readRaw
  | .toPhysical => .ok (.toPhysical (rawInX q.rawIn) (rawInY q.rawIn) (rawInZ q.rawIn))

/-- `Decode(cmd)` of R71, in its order: reserved opcode, must-be-0 bits, unaccepted pair. -/
def decode (q : Request) : Except Illegal Instr :=
  match Opcode.ofCode (cmdOp q.cmd) with
  | none => .error .reservedOpcode
  | some op =>
    if q.cmd &&& op.maskWord = op.matchWord then decodeOperands op q
    else .error .mustBeZero

/-- The instruction a request spells, if it is legal. -/
def decode? (q : Request) : Option Instr :=
  match decode q with
  | .ok i => some i
  | .error _ => none

/-- The operation of an instruction. -/
def Instr.opcode : Instr → Opcode
  | .setField _ _ => .setField
  | .getField _ => .getField
  | .statusGet => .statusGet
  | .deviceIdGet => .deviceIdGet
  | .fieldEncode _ _ _ => .fieldEncode
  | .fieldDecode _ _ => .fieldDecode
  | .readRaw => .readRaw
  | .toPhysical _ _ _ => .toPhysical

/-- A command word from its fields, RSV zero (R62): `OOOO RRRF FF00 0000 BBBB BBBB VVVV VVVV`. -/
def cmdWord (op : Opcode) (reg fld : BitVec 3) (byte val : Byte) : BitVec 32 :=
  op.code ++ reg ++ fld ++ (0 : BitVec 6) ++ byte ++ val

/-- A command word whose REG and FLD name a field. -/
def fieldWord (op : Opcode) (f : Field) (byte val : Byte) : BitVec 32 :=
  cmdWord op f.reg.code f.index byte val

/-- A command word that uses no operand field. -/
def plainWord (op : Opcode) : BitVec 32 := cmdWord op 0 0 0 0

/-- The request of an instruction (R62, R67, R74): every bit it does not use is 0. -/
def encode : Instr → Request
  | .setField f val => ⟨fieldWord .setField f 0 val, 0⟩
  | .getField f => ⟨fieldWord .getField f 0 0, 0⟩
  | .statusGet => ⟨plainWord .statusGet, 0⟩
  | .deviceIdGet => ⟨plainWord .deviceIdGet, 0⟩
  | .fieldEncode f byte val => ⟨fieldWord .fieldEncode f byte val, 0⟩
  | .fieldDecode f byte => ⟨fieldWord .fieldDecode f byte 0, 0⟩
  | .readRaw => ⟨plainWord .readRaw, 0⟩
  | .toPhysical rx ry rz => ⟨plainWord .toPhysical, rx ++ ry ++ rz⟩

/-- The request whose command word has the bits `w` of an `nbits`-bit table row. The 54 bits above the command word,
`raw_in`, are 0 (log entry 6). -/
def tableRequest (nbits w : Nat) : Request := ⟨BitVec.ofNat 32 (w % 2 ^ nbits), 0⟩

/-- What the decoder reads from a word of spec/opcode_table.json. -/
def decodeTableWord (nbits w : Nat) : Option Instr := decode? (tableRequest nbits w)

end Sys2Proof
end

