-- ==== Sys2Proof/Config.lean ====
section
/-! DEFINITION. What an implementation fixes (the parameters of 00_scope.md R7), and the free value: what the
Transport Port answers (R6, 92_eei_decisions.md D33). -/
namespace Sys2Proof

/-- The type of `SW_RESET_DELAY_MS`: "natural, ≥ 15" (R7). -/
abbrev SettleMs := { ms : Nat // 15 ≤ ms }

/-- The implementation parameters of R7. They are static: no operation changes them (R37). `State.params` carries
them, since `exec` and `step` take nothing but an instruction and a state (log entry 1). -/
structure Params where
  /-- `TRANSPORT_PRESENT`: a Transport Port is attached (D16). -/
  transportPresent : Bool
  /-- `DELAY_PRESENT`: the delay primitive is attached (D14). -/
  delayPresent : Bool
  /-- `SW_RESET_DELAY_MS`: the settle delay after a software reset (D14). -/
  swResetDelayMs : SettleMs
  /-- `SW_RESET_CLEARS_SHADOW`: a software reset also zeroes the shadow (D15). -/
  swResetClearsShadow : Bool
  /-- `AXIS_HIGH_BYTE_OFFSET`: which byte of an axis pair is the high byte (D7). -/
  axisHighByteOffset : Fin 2
  /-- `BUS_ERR_WIDTH`: the width in bits of the port's error value (D17). -/
  busErrWidth : Nat
  /-- `BW_200HZ_CODE`: the bandwidth code of the end-to-end scenario (R28, D11). No operation reads it. -/
  bw200HzCode : BitVec 2
  deriving DecidableEq, Repr

/-- The defaults of R7's table. -/
def Params.default : Params where
  transportPresent := true
  delayPresent := true
  swResetDelayMs := ⟨15, by decide⟩
  swResetClearsShadow := false
  axisHighByteOffset := 0
  busErrWidth := 8
  bw200HzCode := 1

/-- What the Transport Port answers to one transaction (R40, R41). A read of `n` bytes that succeeds yields the
first `n` of `data`, a write that succeeds yields nothing; a failed transaction yields an error value. -/
inductive PortAnswer where
  | ok (data : Vector Byte 7)
  | err (code : Nat)
  deriving DecidableEq, Repr, Inhabited

/-- FREE VALUE (log entry 3): the port's answer to the transaction with this draw number. Every answer is a free draw
(R6, D33), so nothing is known of it. -/
opaque Config.freeAnswer : Nat → PortAnswer

end Sys2Proof
end

