-- ==== Sys2Proof/Machine/State.lean ====
section
/-! DEFINITION. The machine's state: the shadow, which is the block's whole persistent state (10_state.md R17), its
static parameters (R7), and what stands at its two interfaces, the request port and the Transport Port. -/
namespace Sys2Proof.Machine

/-- The shadow register file: four 8-bit registers (R18). -/
structure Shadow where
  ctrl0 : Byte
  ctrl1 : Byte
  ctrl2 : Byte
  ctrl3 : Byte
  deriving DecidableEq, Repr

/-- The outcome a response reports (R101, R102). -/
inductive Status where
  | ok | invalidArgument | busError | decodeError
  deriving DecidableEq, Repr

/-- The response record (R61). A field that the operation's rule does not write is 0. -/
structure Response where
  status : Status := .ok
  /-- `BUS_ERR_WIDTH` bits wide; a Nat, because the width is a parameter (log entry 4). -/
  busErr : Nat := 0
  byte : Byte := 0
  flags : BitVec 3 := 0
  bytes : Vector Byte 7 := Vector.replicate 7 0
  raw : Axes Raw := ⟨0, 0, 0⟩
  gauss : Axes Gauss := ⟨0, 0, 0⟩
  ut : Axes MicroTesla := ⟨0, 0, 0⟩
  deriving DecidableEq, Repr

/-- What an operation raises (R15, R102), with what it carries. -/
inductive Raised where
  | invalidArgument
  | busError (code : Nat)
  | decodeError (code : Byte)
  deriving DecidableEq, Repr

/-- How a transaction ended at the port: the bytes it yielded (none for a write), or the error value. -/
inductive PortReply where
  | ok (bytes : List Byte)
  | err (code : Nat)
  deriving DecidableEq, Repr

/-- What `MemRead` of `n` bytes gives the operation: all `n` bytes or an error, never a part (R12, R50). -/
inductive ReadReply (n : Nat) where
  | ok (buf : Vector Byte n)
  | err (code : Nat)
  deriving DecidableEq, Repr

/-- What the block does at its external interfaces (R12, R13, R14): the transactions and the delay. -/
inductive PortEvent where
  | read (addr : Byte) (len : Nat) (reply : PortReply)
  | write (addr : Byte) (data : List Byte) (reply : PortReply)
  | delay (ms : Nat)
  deriving DecidableEq, Repr

/-- The whole state. `shadow` is the block's own and only persistent state (R17). `params` never changes (R37). The other
fields are the model's, for the block's surroundings (log entries 2, 3): what is presented to it and what is seen of it. -/
structure State where
  shadow : Shadow
  params : Params
  /-- The requests the Requester has lined up, the next first (R53). -/
  requests : List Request
  /-- The responses given so far, oldest first (R59). -/
  responses : List Response
  /-- The port transactions and delays so far, oldest first (R5, R53, R116). -/
  trace : List PortEvent
  /-- The answers the Transport Port has lined up, the next first. -/
  answers : List PortAnswer
  /-- How many answers were drawn from `Config.freeAnswer`. -/
  draws : Nat
  deriving DecidableEq, Repr

/-- The block stops on no request: every outcome is a response (R101), so there is no reason to stop. -/
inductive Fault where
  deriving DecidableEq, Repr

/-- Why an instruction has no meaning in this model. -/
inductive Refusal where
  /-- Raised by an arm of `exec` whose instruction has no meaning yet: none is left. Safe: it only stops. -/
  | notModelled (mnemonic : String)
  deriving DecidableEq, Repr

/-- What a step answers. -/
abbrev Result := Host.Outcome State Fault Refusal

/-- A block that has just come into existence with the given parameters (R36, R118, R119, R120): the shadow zero, no
request, no response, no transaction, no delay. -/
def State.resetWith (p : Params) : State where
  shadow := ⟨0x00, 0x00, 0x00, 0x00⟩
  params := p
  requests := []
  responses := []
  trace := []
  answers := []
  draws := 0

/-- The machine right after reset, with the default parameters of R7. -/
def State.reset : State := State.resetWith Params.default

end Sys2Proof.Machine
end

