-- ==== Sys2Proof/Machine/Flags.lean ====
section
/-! DEFINITION. The response's `status` and `flags` (30_encoding.md R61; 60_exceptions.md R102; 41_shadow.md R81).
The block has no condition codes of its own (10_state.md R35). -/
namespace Sys2Proof.Machine

/-- The 2-bit outcome code (R102). -/
def Status.code : Status → BitVec 2
  | .ok => 0
  | .invalidArgument => 1
  | .busError => 2
  | .decodeError => 3

/-- `flags` of STATUS_GET (R61, R81): bit 2 `otp_rd_done`, bit 1 `meas_t_done`, bit 0 `meas_m_done`. -/
def statusFlags (b : Byte) : BitVec 3 :=
  b.extractLsb' 4 1 ++ b.extractLsb' 1 1 ++ b.extractLsb' 0 1

/-- The response of a raised error (R102): the data it carries, every other field 0. -/
def Raised.response : Raised → Response
  | .invalidArgument => { status := .invalidArgument }
  | .busError code => { status := .busError, busErr := code }
  | .decodeError code => { status := .decodeError, byte := code }

end Sys2Proof.Machine
end

