-- ==== Sys2Proof/Machine/Operands.lean ====
section
/-! DEFINITION. Field values and the codec primitives (30_encoding.md R68; 42_codec.md R86 to R88). -/
namespace Sys2Proof.Machine

/-- `mask(w) = (1 << w) - 1` (R9), as a byte: every width is at most 3. -/
def mask (w : Nat) : Byte := BitVec.ofNat 8 (2 ^ w - 1)

/-- The bits of a field in its register: `mask(w) << off` (R86). -/
def fieldBits (f : Field) : Byte := mask f.info.width <<< f.info.off

/-- The field value of SET_FIELD and FIELD_ENCODE: VAL cut to the field's width (R68). -/
def fieldValue (f : Field) (val : Byte) : Byte := val &&& mask f.info.width

/-- `Encode(b, off, w, v)` (R86). -/
def encodeBits (b : Byte) (off w : Nat) (v : Byte) : Byte :=
  (b &&& ~~~(mask w <<< off)) ||| (((v &&& mask w) <<< off) &&& (mask w <<< off))

/-- `Decode(b, off, w)` (R87), zero-extended to a byte. -/
def decodeBits (b : Byte) (off w : Nat) : Byte := (b >>> off) &&& mask w

/-- `Encode` at a field's place. -/
def encodeField (f : Field) (b v : Byte) : Byte := encodeBits b f.info.off f.info.width v

/-- `Decode` at a field's place. -/
def decodeField (f : Field) (b : Byte) : Byte := decodeBits b f.info.off f.info.width

/-- `InDomain(en, v)` (R88). -/
def inDomain (f : Field) (v : Byte) : Bool :=
  match f.info.domain with
  | none => true
  | some codes => codes.contains v.toNat

/-- The write is a software reset: CTRL1.`sw_reset` with masked value 1 (R78). -/
def isSwReset (f : Field) (v : Byte) : Bool := f == .swReset && v == 1

end Sys2Proof.Machine
end

