-- ==== Sys2Proof/Machine/Ops.lean ====
section
/-! DEFINITION. The named operations the meanings are made of: the shadow, the Transport Port, the delay, the response,
and raising an error. -/
namespace Sys2Proof.Machine

/-! ### The shadow (10_state.md R18) -/

/-- `shadow[r]`. -/
def Shadow.get (sh : Shadow) : Ctrl → Byte
  | .ctrl0 => sh.ctrl0
  | .ctrl1 => sh.ctrl1
  | .ctrl2 => sh.ctrl2
  | .ctrl3 => sh.ctrl3

/-- `shadow[r] <- v`. -/
def Shadow.set (sh : Shadow) (c : Ctrl) (v : Byte) : Shadow :=
  match c with
  | .ctrl0 => { sh with ctrl0 := v }
  | .ctrl1 => { sh with ctrl1 := v }
  | .ctrl2 => { sh with ctrl2 := v }
  | .ctrl3 => { sh with ctrl3 := v }

/-- All four registers zero (R36; R78 with `SW_RESET_CLEARS_SHADOW`). -/
def Shadow.zero : Shadow := ⟨0x00, 0x00, 0x00, 0x00⟩

/-- Write one shadow register. -/
def State.setShadow (s : State) (c : Ctrl) (v : Byte) : State :=
  { s with shadow := s.shadow.set c v }

/-- Zero the shadow. -/
def State.clearShadow (s : State) : State := { s with shadow := Shadow.zero }

/-! ### Responses and errors (00_scope.md R15; 60_exceptions.md R101, R102, R108) -/

/-- End the request with this response. -/
def State.respond (s : State) (r : Response) : State :=
  { s with responses := s.responses ++ [r] }

/-- `raise E(info)`: the block's one way to take an exception (R15, R108). It saves nothing and changes nothing but the
response; there is no vector, no saved pc and no mode, and no return from an error (R109). -/
def State.raise (s : State) (e : Raised) : State := s.respond e.response

/-! ### The Transport Port (20_memory.md R40 to R44, R50; 00_scope.md R12, R13) -/

/-- The answer as it stands on the port's wires: an error value has `BUS_ERR_WIDTH` bits (R7, R61, R104; log entry 4). -/
def PortAnswer.onWire (width : Nat) : PortAnswer → PortAnswer
  | .ok data => .ok data
  | .err code => .err (code % 2 ^ width)

/-- The port's answer to the next transaction: the next one lined up, else a free draw (D33). -/
def State.answer (s : State) : PortAnswer :=
  match s.answers with
  | a :: _ => PortAnswer.onWire s.params.busErrWidth a
  | [] => PortAnswer.onWire s.params.busErrWidth (Config.freeAnswer s.draws)

/-- That answer is used up: the next transaction has another. -/
def State.consume (s : State) : State :=
  match s.answers with
  | _ :: rest => { s with answers := rest }
  | [] => { s with draws := s.draws + 1 }

/-- Put a transaction or a delay at the end of the trace. -/
def State.record (s : State) (e : PortEvent) : State :=
  { s with trace := s.trace ++ [e] }

/-- The first `n` bytes the port has. -/
def firstBytes (data : Vector Byte 7) (n : Nat) (h : n ≤ 7) : Vector Byte n :=
  Vector.ofFn fun i => data[i.val]'(Nat.lt_of_lt_of_le i.isLt h)

/-- The outcome of a read of `n` bytes: all of them or an error (R50). -/
def readReply (a : PortAnswer) (n : Nat) (h : n ≤ 7) : ReadReply n :=
  match a with
  | .ok data => .ok (firstBytes data n h)
  | .err code => .err code

/-- A read's outcome as the trace shows it. -/
def ReadReply.shown {n : Nat} : ReadReply n → PortReply
  | .ok buf => .ok buf.toList
  | .err code => .err code

/-- The outcome of a write: success or an error. -/
def writeReply (a : PortAnswer) : PortReply :=
  match a with
  | .ok _ => .ok []
  | .err code => .err code

/-- `MemRead(addr, n)`: one Transport Port read (R12, R40). One attempt (R42). -/
def State.memRead (s : State) (addr : Byte) (n : Nat) (h : n ≤ 7) : ReadReply n × State :=
  (readReply s.answer n h, s.consume.record (.read addr n (readReply s.answer n h).shown))

/-- `MemWrite(addr, n, v)`: one Transport Port write of the `n` bytes `data` (R13, R41). One attempt (R42). -/
def State.memWrite (s : State) (addr : Byte) (data : List Byte) : PortReply × State :=
  (writeReply s.answer, s.consume.record (.write addr data (writeReply s.answer)))

/-- `Delay(ms)`: one call of the delay primitive; it always returns (R14, R43). -/
def State.delay (s : State) (ms : Nat) : State := s.record (.delay ms)

/-! ### The request port (30_encoding.md R59, R60; 20_memory.md R53) -/

/-- The request presented next, and the state in which the block executes it. -/
def State.takeRequest (s : State) : Option (Request × State) :=
  match s.requests with
  | q :: rest => some (q, { s with requests := rest })
  | [] => none

/-- The Requester presents a request in front of those that wait: it is the next one executed. -/
def State.presentNext (s : State) (q : Request) : State :=
  { s with requests := q :: s.requests }

/-- The Requester lines up one more request. -/
def State.present (s : State) (q : Request) : State :=
  { s with requests := s.requests ++ [q] }

end Sys2Proof.Machine
end

