-- ==== Sys2Proof/Machine/Shadow.lean ====
section
/-! DEFINITION. The register shadow operations SET_FIELD, GET_FIELD, STATUS_GET and DEVICE_ID_GET (41_shadow.md). -/
namespace Sys2Proof.Machine

/-- The shadow updates after a successful write of `new` (R79): the commit, then, for a self-clearing field, the second
update with the field's bits cleared and no bus write (R77). -/
def State.commitField (s : State) (c : Ctrl) (f : Field) (new : Byte) : State :=
  if f.info.selfClearing then (s.setShadow c new).setShadow c (new &&& ~~~(fieldBits f))
  else s.setShadow c new

/-- What a software reset adds after the commit (R78): the shadow zeroed if the parameter says so, then the delay. -/
def State.settle (s : State) : State :=
  if s.params.swResetClearsShadow then s.clearShadow.delay s.params.swResetDelayMs
  else s.delay s.params.swResetDelayMs

/-- SET_FIELD's write and what follows it (R79), once the InvalidArgument causes are ruled out: merge, write, and on
success commit, settle after a software reset, and answer with the byte sent. -/
def State.writeField (s : State) (c : Ctrl) (f : Field) (v : Byte) : State :=
  let new := encodeField f (s.shadow.get c) v
  match s.memWrite c.address [new] with
  | (.err e, s1) => s1.raise (.busError e)
  | (.ok _, s1) =>
    if isSwReset f v then ((s1.commitField c f new).settle).respond { byte := new }
    else (s1.commitField c f new).respond { byte := new }

/-- SET_FIELD (R79). A field of STATUS is refused (R66); then the transport (R76) and, for a software reset, the delay
primitive (R78) must be present. -/
def execSetField (f : Field) (val : Byte) (s : State) : Result :=
  .next <|
    match f.ctrl? with
    | none => s.raise .invalidArgument
    | some c =>
      if !s.params.transportPresent then s.raise .invalidArgument
      else if isSwReset f (fieldValue f val) && !s.params.delayPresent then s.raise .invalidArgument
      else s.writeField c f (fieldValue f val)

/-- The answer of a decoding operation (R80, R90): the field's value, or DecodeError carrying it when it is outside the
field's domain (R88, R105). -/
def State.respondDecoded (s : State) (f : Field) (v : Byte) : State :=
  if inDomain f v then s.respond { byte := v } else s.raise (.decodeError v)

/-- GET_FIELD (R80): decode a field from the shadow. It never touches the port and does not need it (R76). -/
def execGetField (f : Field) (s : State) : Result :=
  .next <|
    match f.ctrl? with
    | none => s.raise .invalidArgument
    | some c => s.respondDecoded f (decodeField f (s.shadow.get c))

/-- STATUS_GET (R81): read STATUS at 0x08, whole byte and the three flags. -/
def execStatusGet (s : State) : Result :=
  .next <|
    if !s.params.transportPresent then s.raise .invalidArgument
    else
      match s.memRead 0x08 1 (by decide) with
      | (.err e, s1) => s1.raise (.busError e)
      | (.ok buf, s1) => s1.respond { byte := buf[0], flags := statusFlags buf[0] }

/-- DEVICE_ID_GET (R82): read the identity register at 0x2F; the byte is not compared with 0x30 (R31). -/
def execDeviceIdGet (s : State) : Result :=
  .next <|
    if !s.params.transportPresent then s.raise .invalidArgument
    else
      match s.memRead 0x2F 1 (by decide) with
      | (.err e, s1) => s1.raise (.busError e)
      | (.ok buf, s1) => s1.respond { byte := buf[0] }

end Sys2Proof.Machine
end

