-- ==== Sys2Proof/Machine/Codec.lean ====
section
/-! DEFINITION. The bitfield codec operations FIELD_ENCODE and FIELD_DECODE (42_codec.md). Neither reads the shadow nor
touches the port. -/
namespace Sys2Proof.Machine

/-- FIELD_ENCODE (R89): merge the masked value into the given byte; never validates (R88). -/
def execFieldEncode (f : Field) (byte val : Byte) (s : State) : Result :=
  .next (s.respond { byte := encodeField f byte (fieldValue f val) })

/-- FIELD_DECODE (R90): extract the field from the given byte, and validate it (R88). -/
def execFieldDecode (f : Field) (byte : Byte) (s : State) : Result :=
  .next (s.respondDecoded f (decodeField f byte))

end Sys2Proof.Machine
end

