-- ==== Sys2Proof/Machine/Measurement.lean ====
section
/-! DEFINITION. The measurement pipeline READ_RAW and TO_PHYSICAL (43_measurement.md). -/
namespace Sys2Proof.Machine

/-- `Assemble(hi, lo, e2)` (R92): bits 17:10, 9:2 and 1:0. -/
def assemble (hi lo : Byte) (e2 : BitVec 2) : Raw :=
  (hi.setWidth 18 <<< 10) ||| (lo.setWidth 18 <<< 2) ||| e2.setWidth 18

/-- The extension group of an axis: `ext[7-2a : 6-2a]` (R93). -/
def extGroup (ext : Byte) (a : Axis) : BitVec 2 := ext.extractLsb' (6 - 2 * a.index.val) 2

/-- The register index of an axis's high byte: `2a + H` (R47, R94). -/
def highIndex (h : Fin 2) (a : Axis) : Fin 7 := ⟨2 * a.index.val + h.val, by omega⟩

/-- The register index of an axis's low byte: `2a + 1 - H` (R47, R94). -/
def lowIndex (h : Fin 2) (a : Axis) : Fin 7 := ⟨2 * a.index.val + 1 - h.val, by omega⟩

/-- One axis's raw magnitude from the seven burst bytes (R94). -/
def rawOfBurst (h : Fin 2) (buf : Vector Byte 7) (a : Axis) : Raw :=
  assemble buf[highIndex h a] buf[lowIndex h a] (extGroup buf[6] a)

/-- READ_RAW (R94): one burst of seven registers from 0x00, the bytes and the three magnitudes. -/
def execReadRaw (s : State) : Result :=
  .next <|
    if !s.params.transportPresent then s.raise .invalidArgument
    else
      match s.memRead 0x00 7 (by decide) with
      | (.err e, s1) => s1.raise (.busError e)
      | (.ok buf, s1) =>
        s1.respond { bytes := buf, raw := Axes.ofFn (rawOfBurst s.params.axisHighByteOffset buf) }

/-- `Offset(r) = r - 131072`: offset binary (R95). -/
def offset (r : Raw) : Int := (r.toNat : Int) - 131072

/-- `Offset(r) as s18`: Gauss in `Q4.14` (R96). -/
def gaussOf (r : Raw) : Gauss := BitVec.ofInt 18 (offset r)

/-- `(25 × Offset(r)) as s23`: microtesla in `Q11.12` (R97). -/
def utOf (r : Raw) : MicroTesla := BitVec.ofInt 23 (25 * offset r)

/-- TO_PHYSICAL (R98): convert three raw magnitudes; reads no state and needs no port. -/
def execToPhysical (rx ry rz : Raw) (s : State) : Result :=
  .next (s.respond { gauss := ⟨gaussOf rx, gaussOf ry, gaussOf rz⟩, ut := ⟨utOf rx, utOf ry, utOf rz⟩ })

end Sys2Proof.Machine
end

