-- ==== Sys2Proof/Machine/Dispatch.lean ====
section
/-! DEFINITION. The operation of each instruction (30_encoding.md R63): one arm per row of the opcode table. -/
namespace Sys2Proof.Machine

def exec (i : Instr) (s : State) : Host.Outcome State Fault Refusal :=
  match i with
  | .setField f val => Sys2Proof.Machine.execSetField f val s
  | .getField f => Sys2Proof.Machine.execGetField f s
  | .statusGet => Sys2Proof.Machine.execStatusGet s
  | .deviceIdGet => Sys2Proof.Machine.execDeviceIdGet s
  | .fieldEncode f byte val => Sys2Proof.Machine.execFieldEncode f byte val s
  | .fieldDecode f byte => Sys2Proof.Machine.execFieldDecode f byte s
  | .readRaw => Sys2Proof.Machine.execReadRaw s
  | .toPhysical rx ry rz => Sys2Proof.Machine.execToPhysical rx ry rz s

end Sys2Proof.Machine
end

