-- ==== Sys2Proof/Machine/Serve.lean ====
section
/-! DEFINITION. Executing one request: decode, then run or reject (30_encoding.md R71, R72; 60_exceptions.md R103). -/
namespace Sys2Proof.Machine

/-- One request from its presentation to its response: an accepted word runs its operation, an illegal word gets the
InvalidArgument response and changes nothing (R71, R72). -/
def serve (q : Request) (s : State) : Result :=
  match decode q with
  | .ok i => exec i s
  | .error _ => .next (s.raise .invalidArgument)

/-- No request is presented: the block waits, and nothing changes (R6, R117, R121; log entry 2). -/
def idle (s : State) : Result := .next s

end Sys2Proof.Machine
end

