-- ==== Sys2Proof/Machine/Step.lean ====
section
/-! DEFINITION. The step: the block executes the next request, to completion (20_memory.md R53). There is no program
counter and no fetch (10_state.md R34); the next instruction is the next request. -/
namespace Sys2Proof.Machine

/-- One step. -/
def step (s : State) : Host.Outcome State Fault Refusal :=
  match s.takeRequest with
  | some (q, s1) => serve q s1
  | none => idle s

/-- The state in which the next request is the given opcode-table word, with `raw_in` 0 (log entry 6). -/
def State.withFetchWord (s : State) (nbits w : Nat) : State :=
  s.presentNext (tableRequest nbits w)

end Sys2Proof.Machine
end

