-- ==== Sys2Proof/Machine/Asm.lean ====
section
/-! DEFINITION. The assembler and the pseudo-instructions (30_encoding.md R74, R75), on a line given as its characters. -/
namespace Sys2Proof.Machine

/-! ### Pseudo-instructions (R75) -/

/-- The pseudo-instructions that expand to one request. -/
inductive Pseudo where
  | swReset | measureM | measureT | strobeSet | strobeReset
  | setBandwidth (n : Byte)
  deriving DecidableEq, Repr

/-- The expansion column of R75. -/
def Pseudo.expand : Pseudo → Instr
  | .swReset => .setField .swReset 1
  | .measureM => .setField .tmM 1
  | .measureT => .setField .tmT 1
  | .strobeSet => .setField .set 1
  | .strobeReset => .setField .reset 1
  | .setBandwidth n => .setField .bandwidth n

/-- READ_FIELD's first request: READ_RAW (R75). -/
def readFieldFirst : Request := encode .readRaw

/-- READ_FIELD's second request: TO_PHYSICAL on the `raw` that READ_RAW returned, only if it returned OK (R75). The
Requester carries `raw` from the first response into the second request. -/
def readFieldSecond (r : Response) : Option Request :=
  match r.status with
  | .ok => some (encode (.toPhysical r.raw.x r.raw.y r.raw.z))
  | _ => none

/-- READ_FIELD (R75), as the Requester runs it: it presents READ_RAW, and when the response to that request is OK it
presents TO_PHYSICAL. DESIGN CHOICE (log entry 16): both stand in front of the requests that already wait, so nothing
comes between the two; the spec does not say where they stand. -/
def runReadField (s : State) : Result :=
  match step (s.presentNext readFieldFirst) with
  | .next t =>
    match t.responses[s.responses.length]?.bind readFieldSecond with
    | some q => step (t.presentNext q)
    | none => .next t
  | .fault e => .fault e
  | .refused e => .refused e

/-- "Set bandwidth to the 200 Hz code": the scenario word, which alone uses `BW_200HZ_CODE` (R28, D11). -/
def Params.setBandwidth200Hz (p : Params) : Instr := .setField .bandwidth (p.bw200HzCode.setWidth 8)

/-! ### Names (R65, R74) -/

/-- The assembler's name of a register. -/
def Reg.name : Reg → String
  | .ctrl .ctrl0 => "CTRL0"
  | .ctrl .ctrl1 => "CTRL1"
  | .ctrl .ctrl2 => "CTRL2"
  | .ctrl .ctrl3 => "CTRL3"
  | .status => "STATUS"

/-- The assembler's name of a field. -/
def Field.name : Field → String
  | .tmM => "tm_m"
  | .tmT => "tm_t"
  | .intMeasDoneEn => "int_meas_done_en"
  | .set => "set"
  | .reset => "reset"
  | .autoSrEn => "auto_sr_en"
  | .otpRead => "otp_read"
  | .bandwidth => "bandwidth"
  | .xInhibit => "x_inhibit"
  | .yzInhibit => "yz_inhibit"
  | .swReset => "sw_reset"
  | .cmFreq => "cm_freq"
  | .cmmEn => "cmm_en"
  | .prdSet => "prd_set"
  | .enPrdSet => "en_prd_set"
  | .stEnp => "st_enp"
  | .stEnm => "st_enm"
  | .spi3w => "spi_3w"
  | .measMDone => "meas_m_done"
  | .measTDone => "meas_t_done"
  | .otpRdDone => "otp_rd_done"

/-! ### Tokens -/

/-- A word or a comma of a line. -/
inductive Token where
  | word (cs : List Char)
  | comma
  deriving DecidableEq, Repr

/-- The word read so far, if there is one. -/
def flushWord (acc : List Char) : List Token := if acc.isEmpty then [] else [.word acc]

/-- Everything after `;` is a comment (R74). -/
def stripComment (line : List Char) : List Char := line.takeWhile fun c => c != ';'

/-- Words are separated by blanks and commas. -/
def tokens (acc : List Char) : List Char → List Token
  | [] => flushWord acc
  | c :: cs =>
    if c == ' ' || c == '\t' then flushWord acc ++ tokens [] cs
    else if c == ',' then flushWord acc ++ .comma :: tokens [] cs
    else tokens (acc ++ [c]) cs

/-- The value of a digit. -/
def digitValue (c : Char) : Option Nat :=
  if '0' ≤ c ∧ c ≤ '9' then some (c.toNat - '0'.toNat)
  else if 'a' ≤ c ∧ c ≤ 'f' then some (c.toNat - 'a'.toNat + 10)
  else if 'A' ≤ c ∧ c ≤ 'F' then some (c.toNat - 'A'.toNat + 10)
  else none

/-- The rest of a number in the given base, `acc` read so far. -/
def readDigits (base acc : Nat) : List Char → Option Nat
  | [] => some acc
  | c :: cs =>
    match digitValue c with
    | some d => if d < base then readDigits base (base * acc + d) cs else none
    | none => none

/-- An integer in decimal, in hex as `0x..`, or in binary as `0b..` (R74). -/
def readNumber : List Char → Option Nat
  | [] => none
  | ['0', 'x'] => none
  | ['0', 'b'] => none
  | '0' :: 'x' :: ds => readDigits 16 0 ds
  | '0' :: 'b' :: ds => readDigits 2 0 ds
  | ds => readDigits 10 0 ds

/-- A `<value>` or `<byte>` operand: 0 to 255 (R74). -/
def byteOperand (cs : List Char) : Option Byte :=
  (readNumber cs).bind fun n => if n ≤ 255 then some (BitVec.ofNat 8 n) else none

/-- An `<rx>`, `<ry>` or `<rz>` operand: 0 to 262143 (R74). -/
def rawOperand (cs : List Char) : Option Raw :=
  (readNumber cs).bind fun n => if n ≤ 262143 then some (BitVec.ofNat 18 n) else none

/-- A `<reg>.<field>` operand (R74). -/
def fieldOperandText (cs : List Char) : Option Field :=
  Field.all.find? fun f => (Reg.name f.reg ++ "." ++ Field.name f).toList == cs

/-! ### Lines -/

/-- What one source line stands for. -/
inductive AsmLine where
  /-- Nothing but blanks or a comment. -/
  | blank
  | request (q : Request)
  /-- READ_FIELD: its first request; the second depends on the response, as `runReadField` says (R75). -/
  | readField (first : Request)
  deriving DecidableEq, Repr

/-- Emit an instruction; a register/field pair that the operation does not accept is rejected (R66, R74). -/
def emit (i : Instr) : Option AsmLine :=
  if i.wellFormed then some (.request (encode i)) else none

/-- Lines with no operand. -/
def asm0 (m : List Char) : Option AsmLine :=
  if m == "STATUS_GET".toList then emit .statusGet
  else if m == "DEVICE_ID_GET".toList then emit .deviceIdGet
  else if m == "READ_RAW".toList then emit .readRaw
  else if m == "SW_RESET".toList then emit Pseudo.swReset.expand
  else if m == "MEASURE_M".toList then emit Pseudo.measureM.expand
  else if m == "MEASURE_T".toList then emit Pseudo.measureT.expand
  else if m == "STROBE_SET".toList then emit Pseudo.strobeSet.expand
  else if m == "STROBE_RESET".toList then emit Pseudo.strobeReset.expand
  else if m == "READ_FIELD".toList then some (.readField readFieldFirst)
  else none

/-- Lines with one operand. -/
def asm1 (m a : List Char) : Option AsmLine :=
  if m == "GET_FIELD".toList then (fieldOperandText a).bind fun f => emit (.getField f)
  else if m == "SET_BANDWIDTH".toList then
    (byteOperand a).bind fun n => emit (Pseudo.setBandwidth n).expand
  else none

/-- Lines with two operands. -/
def asm2 (m a b : List Char) : Option AsmLine :=
  if m == "SET_FIELD".toList then
    (fieldOperandText a).bind fun f => (byteOperand b).bind fun v => emit (.setField f v)
  else if m == "FIELD_DECODE".toList then
    (fieldOperandText a).bind fun f => (byteOperand b).bind fun v => emit (.fieldDecode f v)
  else none

/-- Lines with three operands. -/
def asm3 (m a b c : List Char) : Option AsmLine :=
  if m == "FIELD_ENCODE".toList then
    (fieldOperandText a).bind fun f => (byteOperand b).bind fun x => (byteOperand c).bind fun v =>
      emit (.fieldEncode f x v)
  else if m == "TO_PHYSICAL".toList then
    (rawOperand a).bind fun x => (rawOperand b).bind fun y => (rawOperand c).bind fun z =>
      emit (.toPhysical x y z)
  else none

/-- Assemble one line (R74, R75); `none` if it is rejected. -/
def assembleLine (line : List Char) : Option AsmLine :=
  match tokens [] (stripComment line) with
  | [] => some .blank
  | [.word m] => asm0 m
  | [.word m, .word a] => asm1 m a
  | [.word m, .word a, .comma, .word b] => asm2 m a b
  | [.word m, .word a, .comma, .word b, .comma, .word c] => asm3 m a b c
  | _ => none

end Sys2Proof.Machine
end

