-- ==== Sys2Proof/Machine/FixedPoint.lean ====
section
/-! DEFINITION. The numbers that fixed-point patterns stand for (00_scope.md R16), and the floating-point formula of the
source that R100 compares them with. No operation uses this file: it is what the claims about values are stated in. -/
namespace Sys2Proof.Machine

/-- The real number of a signed pattern with `f` fraction bits: `x × 2^-f` (R16). -/
def fixedValue {n : Nat} (f : Nat) (x : BitVec n) : ℚ := (x.toInt : ℚ) / 2 ^ f

/-- A `gauss` pattern in Gauss: `Q4.14` (R96). -/
def gaussValue (x : Gauss) : ℚ := fixedValue 14 x

/-- A `ut` pattern in microtesla: `Q11.12` (R97). -/
def utValue (x : MicroTesla) : ℚ := fixedValue 12 x

/-- A binary floating-point format: precision, and the range of the exponent of the last place. -/
structure FloatFormat where
  prec : Nat
  emin : Int
  emax : Int

/-- IEEE 754 binary32: 24 significant bits. -/
def binary32 : FloatFormat := ⟨24, -149, 104⟩

/-- IEEE 754 binary64: 53 significant bits. -/
def binary64 : FloatFormat := ⟨53, -1074, 971⟩

/-- The format holds this number exactly. -/
def FloatFormat.Holds (fmt : FloatFormat) (q : ℚ) : Prop :=
  ∃ m e : ℤ, |m| < 2 ^ fmt.prec ∧ fmt.emin ≤ e ∧ e ≤ fmt.emax ∧ q = m * (2 : ℚ) ^ e

/-- A rounding to the format leaves every number the format holds as it is, as rounding to nearest does. -/
def FloatFormat.Rounds (fmt : FloatFormat) (round : ℚ → ℚ) : Prop :=
  ∀ q, fmt.Holds q → round q = q

/-- The source's formula `-8.0 + raw * (1/16384)`, every step rounded (R100 law 2). -/
def floatGauss (round : ℚ → ℚ) (r : Raw) : ℚ :=
  round (round (-8) + round (round (r.toNat : ℚ) * round (round 1 / round 16384)))

/-- The microtesla value `gauss × 100`, every step rounded (R100 law 2). -/
def floatUt (round : ℚ → ℚ) (r : Raw) : ℚ := round (floatGauss round r * round 100)

end Sys2Proof.Machine
end

