-- ==== Sys2Proof/Safety.lean ====
section
/-! DEFINITION. What the claims are stated in: the invariants of the shadow, of the trace and of the responses, the
shadow as the trace implies it, and runs over a list of requests. -/
namespace Sys2Proof.Machine

/-! ### The shadow (10_state.md R20 to R22) -/

/-- The self-clearing bits of a control register (R22). -/
def strobeBits : Ctrl → Byte
  | .ctrl0 => 0b00011011
  | .ctrl1 => 0b10000000
  | .ctrl2 => 0
  | .ctrl3 => 0

/-- The bits of a control register that no field covers (R23 to R26). -/
def unlistedBits : Ctrl → Byte
  | .ctrl0 => 0b10000000
  | .ctrl1 => 0b01100000
  | .ctrl2 => 0
  | .ctrl3 => 0b10110011

/-- Every self-clearing bit of the shadow is 0 (R22). -/
def Shadow.StrobesClear (sh : Shadow) : Prop := ∀ c, sh.get c &&& strobeBits c = 0

/-- Every bit of the shadow that no field covers is 0 (R21). -/
def Shadow.UnlistedClear (sh : Shadow) : Prop := ∀ c, sh.get c &&& unlistedBits c = 0

/-- Both bit invariants of the shadow. -/
def Shadow.Clean (sh : Shadow) : Prop := sh.StrobesClear ∧ sh.UnlistedClear

/-- The control register at a device address (R18). -/
def ctrlAt (addr : Byte) : Option Ctrl :=
  if addr = 0x09 then some .ctrl0
  else if addr = 0x0A then some .ctrl1
  else if addr = 0x0B then some .ctrl2
  else if addr = 0x0C then some .ctrl3
  else none

/-- The write asserted CTRL1.`sw_reset` and succeeded: a software reset, which a delay must follow (R78). -/
def PortEvent.assertsSwReset : PortEvent → Bool
  | .write addr [b] (.ok _) => addr == 0x0A && b.getLsbD 7
  | _ => false

/-- What one event of the trace makes of the shadow: a successful write leaves the byte with the self-clearing bits 0
(R20), and, with `SW_RESET_CLEARS_SHADOW`, a software reset leaves zero (R78). -/
def replayEvent (clears : Bool) (sh : Shadow) (e : PortEvent) : Shadow :=
  match e with
  | .write addr [b] (.ok _) =>
    match ctrlAt addr with
    | some c =>
      if clears && e.assertsSwReset then Shadow.zero else sh.set c (b &&& ~~~(strobeBits c))
    | none => sh
  | _ => sh

/-- The shadow that the writes of a trace imply, from the reset value on (R20, R36). -/
def replay (clears : Bool) (tr : List PortEvent) : Shadow := tr.foldl (replayEvent clears) Shadow.zero

/-- The last byte successfully written to a control register, after one more event. -/
def writtenAfter (c : Ctrl) (last : Option Byte) (e : PortEvent) : Option Byte :=
  match e with
  | .write addr [b] (.ok _) => if ctrlAt addr = some c then some b else last
  | _ => last

/-- The last byte successfully written to a control register, if any (R20). -/
def lastWritten (c : Ctrl) (tr : List PortEvent) : Option Byte := tr.foldl (writtenAfter c) none

/-! ### The trace (20_memory.md R39, R44, R45; 70_reset_and_hazards.md R125) -/

/-- A reply of the given length, or an error value of the port's width. -/
def PortReply.Fits (width len : Nat) : PortReply → Prop
  | .ok bytes => bytes.length = len
  | .err code => code < 2 ^ width

/-- The event is one of the table of R45. -/
def PortEvent.Legal (p : Params) : PortEvent → Prop
  | .read addr len reply =>
    ((addr = 0x08 ∧ len = 1) ∨ (addr = 0x2F ∧ len = 1) ∨ (addr = 0x00 ∧ len = 7)) ∧
      reply.Fits p.busErrWidth len
  | .write addr data reply =>
    (addr = 0x09 ∨ addr = 0x0A ∨ addr = 0x0B ∨ addr = 0x0C) ∧ data.length = 1 ∧ reply.Fits p.busErrWidth 0
  | .delay ms => ms = p.swResetDelayMs

/-- The device addresses a transaction touches, one register each (R38, R44, R46). -/
def PortEvent.addresses : PortEvent → List Nat
  | .read addr len _ => (List.range len).map fun k => addr.toNat + k
  | .write addr data _ => (List.range data.length).map fun k => addr.toNat + k
  | .delay _ => []

/-- The event is a write transaction. -/
def PortEvent.isWrite : PortEvent → Bool
  | .write _ _ _ => true
  | _ => false

/-- The operation uses the device register (R33, its last column). -/
def UsesRegister (i : Instr) : DeviceRegister → Prop
  | .output _ => i = .readRaw
  | .temperature => False
  | .status => i = .statusGet
  | .control c => ∃ (f : Field) (val : Byte), i = .setField f val ∧ f.ctrl? = some c
  | .identity => i = .deviceIdGet

/-- A delay of `ms` stands right after every software reset and nowhere else (R45, R78, R125). `owed` says that the event
before was a software reset. -/
def settledFrom (ms : Nat) : Bool → List PortEvent → Bool
  | owed, [] => !owed
  | owed, e :: rest =>
    (match e with
      | .delay d => owed && d == ms
      | _ => !owed) && settledFrom ms e.assertsSwReset rest

/-- Every software reset of the trace is settled. -/
def Settled (s : State) : Prop := settledFrom s.params.swResetDelayMs false s.trace = true

/-! ### The responses (30_encoding.md R61; 60_exceptions.md R102) -/

/-- A response carries what its outcome carries and nothing else (R102), within its widths (R61). -/
def Response.Fits (width : Nat) (r : Response) : Prop :=
  match r.status with
  | .ok => r.busErr = 0
  | .invalidArgument => r = { status := .invalidArgument }
  | .busError => r = { status := .busError, busErr := r.busErr } ∧ r.busErr < 2 ^ width
  | .decodeError => r = { status := .decodeError, byte := r.byte } ∧ 4 ≤ r.byte.toNat ∧ r.byte.toNat ≤ 7

/-! ### The whole -/

/-- What every step keeps. -/
structure State.Inv (s : State) : Prop where
  clean : s.shadow.Clean
  mirror : s.shadow = replay s.params.swResetClearsShadow s.trace
  legal : ∀ e ∈ s.trace, e.Legal s.params
  settled : Settled s
  fits : ∀ r ∈ s.responses, r.Fits s.params.busErrWidth

/-! ### Runs over a list of requests (41_shadow.md R83) -/

/-- The state an outcome leaves, if it is a next state. -/
def nextState? (r : Result) : Option State :=
  match r with
  | .next s => some s
  | .fault _ => none
  | .refused _ => none

/-- Serve requests one after another. -/
def runRequests : List Request → State → Option State
  | [], s => some s
  | q :: rest, s => (nextState? (serve q s)).bind (runRequests rest)

/-- What R83 says GET_FIELD of `f` returns after one more instruction, if it returned `v` before: the masked value set, or
0 after a software reset that clears the shadow. -/
def expectedAfter (clears : Bool) (f : Field) (v : Byte) : Instr → Byte
  | .setField g val =>
    if g = f then fieldValue f val
    else if clears && isSwReset g (fieldValue g val) then 0
    else v
  | _ => v

/-- R83's value after a list of instructions, from reset. -/
def expectedValue (clears : Bool) (f : Field) (is : List Instr) : Byte :=
  is.foldl (expectedAfter clears f) 0

/-- The event is a write that failed. -/
def PortEvent.failedWrite : PortEvent → Bool
  | .write _ _ (.err _) => true
  | _ => false

/-! ### Which requests are legal, in numbers (30_encoding.md R62, R65 to R67) -/

/-- A field of the command word as a number: `width` bits from bit `lo` up (R62). -/
def cmdNum (cmd : BitVec 32) (lo width : Nat) : Nat := cmd.toNat / 2 ^ lo % 2 ^ width

/-- A row of R65's table in numbers, with the constructor that models it. -/
structure FieldRow where
  field : Field
  name : String
  reg : Nat
  fld : Nat
  off : Nat
  width : Nat
  selfClearing : Bool
  domain : Option (List Nat)

/-- R65's table, copied row by row; the columns of the source are REG, FLD, field, off, w, sc, en. -/
def fieldTable : List FieldRow := [
  ⟨.tmM, "CTRL0.tm_m", 0, 0, 0, 1, true, none⟩,
  ⟨.tmT, "CTRL0.tm_t", 0, 1, 1, 1, true, none⟩,
  ⟨.intMeasDoneEn, "CTRL0.int_meas_done_en", 0, 2, 2, 1, false, none⟩,
  ⟨.set, "CTRL0.set", 0, 3, 3, 1, true, none⟩,
  ⟨.reset, "CTRL0.reset", 0, 4, 4, 1, true, none⟩,
  ⟨.autoSrEn, "CTRL0.auto_sr_en", 0, 5, 5, 1, false, none⟩,
  ⟨.otpRead, "CTRL0.otp_read", 0, 6, 6, 1, false, none⟩,
  ⟨.bandwidth, "CTRL1.bandwidth", 1, 0, 0, 2, false, some [0, 1, 2, 3]⟩,
  ⟨.xInhibit, "CTRL1.x_inhibit", 1, 1, 2, 1, false, none⟩,
  ⟨.yzInhibit, "CTRL1.yz_inhibit", 1, 2, 3, 2, false, none⟩,
  ⟨.swReset, "CTRL1.sw_reset", 1, 3, 7, 1, true, none⟩,
  ⟨.cmFreq, "CTRL2.cm_freq", 2, 0, 0, 3, false, some [0, 1, 2, 3]⟩,
  ⟨.cmmEn, "CTRL2.cmm_en", 2, 1, 3, 1, false, none⟩,
  ⟨.prdSet, "CTRL2.prd_set", 2, 2, 4, 3, false, none⟩,
  ⟨.enPrdSet, "CTRL2.en_prd_set", 2, 3, 7, 1, false, none⟩,
  ⟨.stEnp, "CTRL3.st_enp", 3, 0, 2, 1, false, none⟩,
  ⟨.stEnm, "CTRL3.st_enm", 3, 1, 3, 1, false, none⟩,
  ⟨.spi3w, "CTRL3.spi_3w", 3, 2, 6, 1, false, none⟩,
  ⟨.measMDone, "STATUS.meas_m_done", 4, 0, 0, 1, false, none⟩,
  ⟨.measTDone, "STATUS.meas_t_done", 4, 1, 1, 1, false, none⟩,
  ⟨.otpRdDone, "STATUS.otp_rd_done", 4, 2, 4, 1, false, none⟩]

/-- How many fields a register has: FLD runs from 0 up to it (R65). -/
def fieldCount (reg : Nat) : Nat :=
  match reg with
  | 0 => 7
  | 1 => 4
  | 2 => 4
  | 3 => 3
  | 4 => 3
  | _ => 0

/-- OP selects no operation (R63). -/
def ReservedOp (cmd : BitVec 32) : Prop := cmdNum cmd 28 4 = 0 ∨ 9 ≤ cmdNum cmd 28 4

/-- Every field the operation does not use is 0 (R67, the table's last column). -/
def UnusedZero (cmd : BitVec 32) : Prop :=
  cmdNum cmd 16 6 = 0 ∧
  (cmdNum cmd 28 4 ∉ [5, 6] → cmdNum cmd 8 8 = 0) ∧
  (cmdNum cmd 28 4 ∉ [1, 5] → cmdNum cmd 0 8 = 0) ∧
  (cmdNum cmd 28 4 ∉ [1, 2, 5, 6] → cmdNum cmd 25 3 = 0 ∧ cmdNum cmd 22 3 = 0)

/-- The operation uses REG and FLD, and does not accept the pair (R66). -/
def UnacceptedPair (cmd : BitVec 32) : Prop :=
  cmdNum cmd 28 4 ∈ [1, 2, 5, 6] ∧
  ¬(cmdNum cmd 22 3 < fieldCount (cmdNum cmd 25 3) ∧ (cmdNum cmd 28 4 ∈ [1, 2] → cmdNum cmd 25 3 ≤ 3))

/-- The command word is legal: none of the causes 1 to 3 of R103. -/
def LegalWord (cmd : BitVec 32) : Prop := ¬ReservedOp cmd ∧ UnusedZero cmd ∧ ¬UnacceptedPair cmd

/-- Cause 4 of R103: the operation needs the Transport Port, and there is none. -/
def PortMissing (cmd : BitVec 32) (p : Params) : Prop :=
  cmdNum cmd 28 4 ∈ [1, 3, 4, 7] ∧ p.transportPresent = false

/-- Cause 5 of R103: a SET_FIELD that asserts `sw_reset`, and there is no delay primitive. -/
def DelayMissing (cmd : BitVec 32) (p : Params) : Prop :=
  cmdNum cmd 28 4 = 1 ∧ cmdNum cmd 25 3 = 1 ∧ cmdNum cmd 22 3 = 3 ∧ cmdNum cmd 0 8 % 2 = 1 ∧ p.delayPresent = false

/-! ### Which instructions need what (41_shadow.md R76, R78) -/

/-- The operation issues a Transport Port transaction (R76). -/
def usesPort : Instr → Bool
  | .setField _ _ => true
  | .getField _ => false
  | .statusGet => true
  | .deviceIdGet => true
  | .fieldEncode _ _ _ => false
  | .fieldDecode _ _ => false
  | .readRaw => true
  | .toPhysical _ _ _ => false

/-- The instruction is a software reset: SET_FIELD of `sw_reset` with an odd VAL (R68, R78). -/
def asksSwReset : Instr → Bool
  | .setField .swReset val => val.getLsbD 0
  | _ => false

/-- What is left of the InvalidArgument causes once a word is decoded (R66, R76, R78). -/
def refusedFor (p : Params) (i : Instr) : Bool :=
  !i.wellFormed || (usesPort i && !p.transportPresent) || (asksSwReset i && !p.delayPresent)

/-- Bit `i` of the register belongs to the field (R9). -/
def InField (f : Field) (i : Nat) : Prop := f.info.off ≤ i ∧ i < f.info.off + f.info.width

/-! ### Frames: what a request leaves unchanged -/

/-- Nothing but the shadow, the response and the port's traffic may differ (R17, R37). -/
structure SameSetting (s t : State) : Prop where
  params : t.params = s.params
  requests : t.requests = s.requests

/-- No transaction and no delay. -/
structure NoTraffic (s t : State) : Prop where
  trace : t.trace = s.trace
  answers : t.answers = s.answers
  draws : t.draws = s.draws

/-- One transaction used up one answer of the port, and the trace grew by these events. -/
structure Traffic (s t : State) (es : List PortEvent) : Prop where
  trace : t.trace = s.trace ++ es
  answers : t.answers = s.answers.tail
  draws : t.draws = if s.answers = [] then s.draws + 1 else s.draws

end Sys2Proof.Machine
end

