-- ==== Sys2Proof/Certificates/Slice0/Obligations.lean ====
section
/-! DEFINITION. The statements for the provers. Each formalises rules of spec/ or rests on the sections named. -/
open Sys2Proof Sys2Proof.Machine

/-! ### The command word (30_encoding.md) -/

/-- One word of each operation, written out from R62 and R63, decodes to the instruction it stands for; the words with a
field operand are R74's examples. That a table word is presented with `raw_in` 0, so that TO_PHYSICAL's word decodes
to three lanes of 0, is the model's choice (DESIGN CHOICE, log entry 6). -/
def Obligations.SpecWordsDecode : Prop :=
  decodeTableWord 32 0x12000001 = some (.setField .bandwidth 1) ∧
  decodeTableWord 32 0x22C00000 = some (.getField .swReset) ∧
  decodeTableWord 32 0x30000000 = some .statusGet ∧
  decodeTableWord 32 0x40000000 = some .deviceIdGet ∧
  decodeTableWord 32 0x5280FF00 = some (.fieldEncode .yzInhibit 0xFF 0) ∧
  decodeTableWord 32 0x68801300 = some (.fieldDecode .otpRdDone 0x13) ∧
  decodeTableWord 32 0x70000000 = some .readRaw ∧
  decodeTableWord 32 0x80000000 = some (.toPhysical 0 0 0) ∧
  decodeTableWord 32 0x28000000 = none

/-- Decoding an encoded well-formed instruction gives it back, with every operand at every value. -/
def Obligations.DecodeOfEncode : Prop :=
  ∀ i : Instr, i.wellFormed = true → decode (encode i) = .ok i

/-- Every accepted word is the encoding of the instruction it decodes to, so each instruction has one spelling; `raw_in`
is carried where it is read (D6, R67). -/
def Obligations.EncodeOfDecode : Prop :=
  ∀ (q : Request) (i : Instr), decode q = .ok i →
    i.wellFormed = true ∧ (encode i).cmd = q.cmd ∧ (i.opcode = .toPhysical → (encode i).rawIn = q.rawIn)

/-- No two rows of R71's table match the same word. -/
def Obligations.OpcodeRowsDisjoint : Prop :=
  ∀ (cmd : BitVec 32) (a b : Opcode),
    cmd &&& a.maskWord = a.matchWord → cmd &&& b.maskWord = b.matchWord → a = b

/-- The decoder rejects exactly the words of R71, each for the first cause that applies, in R71's order. -/
def Obligations.DecoderRejectsByCause : Prop :=
  ∀ q : Request,
    (decode q = .error .reservedOpcode ↔ ReservedOp q.cmd) ∧
    (decode q = .error .mustBeZero ↔ ¬ReservedOp q.cmd ∧ ¬UnusedZero q.cmd) ∧
    (decode q = .error .unacceptedPair ↔ ¬ReservedOp q.cmd ∧ UnusedZero q.cmd ∧ UnacceptedPair q.cmd) ∧
    ((∃ i, decode q = .ok i) ↔ LegalWord q.cmd)

/-- R66: SET_FIELD and GET_FIELD accept a pair exactly if R65 has it and REG ≤ 3, FIELD_ENCODE and FIELD_DECODE accept
every pair of R65; a pair that is not accepted makes the request answer InvalidArgument, with no transaction. -/
def Obligations.FieldPairAcceptance : Prop :=
  ∀ (q : Request) (s : State), cmdNum q.cmd 28 4 ∈ [1, 2, 5, 6] → UnusedZero q.cmd →
    ((∃ i, decode q = .ok i) ↔
      (∃ f : Field, f.reg.code.toNat = cmdNum q.cmd 25 3 ∧ f.index.toNat = cmdNum q.cmd 22 3 ∧
        (cmdNum q.cmd 28 4 ∈ [1, 2] → cmdNum q.cmd 25 3 ≤ 3))) ∧
    ((¬∃ i, decode q = .ok i) →
      serve q s = .next { s with responses := s.responses ++ [{ status := .invalidArgument }] })

/-- R67: RSV, and every field the operation does not use, must be 0, else the request answers InvalidArgument and
nothing else happens; `raw_in` is ignored by every operation but TO_PHYSICAL; and no value of `raw_in` is illegal,
for any command word. -/
def Obligations.UnusedBitsMustBeZero : Prop :=
  (∀ (q : Request) (s : State), ¬UnusedZero q.cmd →
    serve q s = .next { s with responses := s.responses ++ [{ status := .invalidArgument }] }) ∧
  (∀ (cmd : BitVec 32) (x y : BitVec 54) (s : State), cmdNum cmd 28 4 ≠ 8 → serve ⟨cmd, x⟩ s = serve ⟨cmd, y⟩ s) ∧
  (∀ (cmd : BitVec 32) (x y : BitVec 54), (∃ i, decode ⟨cmd, x⟩ = .ok i) → ∃ i, decode ⟨cmd, y⟩ = .ok i)

/-- R70: TO_PHYSICAL reads three 18-bit lanes from `raw_in`, and every 54-bit value is legal. -/
def Obligations.RawInLanes : Prop :=
  ∀ raw : BitVec 54, ∃ rx ry rz : Raw,
    decode ⟨0x80000000, raw⟩ = .ok (.toPhysical rx ry rz) ∧
    rx.toNat = raw.toNat / 2 ^ 36 ∧ ry.toNat = raw.toNat / 2 ^ 18 % 2 ^ 18 ∧ rz.toNat = raw.toNat % 2 ^ 18

/-- R75: the command words of the pseudo-instructions: those that expand to one request, and READ_FIELD's two, the
second only after an OK response and with the `raw` of that response in `raw_in`. -/
def Obligations.PseudoInstructionWords : Prop :=
  encode Pseudo.swReset.expand = ⟨0x12C00001, 0⟩ ∧
  encode Pseudo.measureM.expand = ⟨0x10000001, 0⟩ ∧
  encode Pseudo.measureT.expand = ⟨0x10400001, 0⟩ ∧
  encode Pseudo.strobeSet.expand = ⟨0x10C00001, 0⟩ ∧
  encode Pseudo.strobeReset.expand = ⟨0x11000001, 0⟩ ∧
  (∀ n : Byte, encode (Pseudo.setBandwidth n).expand = ⟨0x12000000 + n.setWidth 32, 0⟩) ∧
  readFieldFirst = ⟨0x70000000, 0⟩ ∧
  ∀ r : Response, readFieldSecond r =
    if r.status = .ok then some ⟨0x80000000, r.raw.x ++ r.raw.y ++ r.raw.z⟩ else none

/-- Whatever line the assembler turns into a request (for READ_FIELD, its first request), the decoder accepts that
request, as an instruction whose encoding it is: the assembler rejects every pair that the operation does not
accept. -/
def Obligations.AssembledRequestsAreLegal : Prop :=
  ∀ (line : List Char) (q : Request),
    assembleLine line = some (.request q) ∨ assembleLine line = some (.readField q) →
    ∃ i : Instr, i.wellFormed = true ∧ decode q = .ok i ∧ encode i = q

/-! ### The step (20_memory.md R53) -/

/-- When the request presented next decodes to an instruction, the step is that instruction's `exec`, in the state from
which the request is taken. -/
def Obligations.StepRunsDecoded : Prop :=
  ∀ (s : State) (q : Request) (rest : List Request) (i : Instr),
    s.requests = q :: rest → decode q = .ok i → step s = exec i { s with requests := rest }

/-- The opcode-table word placed by `withFetchWord` is what the very next step runs (the model's choice of how a word is
presented, log entry 6). -/
def Obligations.PlacedWordRuns : Prop :=
  ∀ (s : State) (i : Instr) (nbits w : Nat), decodeTableWord nbits w = some i →
    step (s.withFetchWord nbits w) = exec i s

/-- Between requests the block takes no step: with nothing presented, nothing changes (the model's choice of how a wait
looks, log entry 2). -/
def Obligations.WaitChangesNothing : Prop :=
  ∀ s : State, s.requests = [] → step s = .next s

/-- An illegal word gets the InvalidArgument response and changes nothing. -/
def Obligations.IllegalWordAnswer : Prop :=
  ∀ (s : State) (q : Request) (rest : List Request), s.requests = q :: rest → ¬LegalWord q.cmd →
    step s = .next { s with
      requests := rest, responses := s.responses ++ [{ status := .invalidArgument }] }

/-- Every request is taken and answered by exactly one response, whatever it is and whatever the port answers; no fault
and no refusal is ever reached. This rests on two points of the model: every port call and every delay call returns
(DESIGN CHOICE, log entry 7: it is false of a block whose port hangs), and no outcome stops the machine (DEDUCED,
log entry 13). -/
def Obligations.EveryRequestOneResponse : Prop :=
  ∀ (s : State) (q : Request) (rest : List Request), s.requests = q :: rest →
    ∃ (t : State) (r : Response), step s = .next t ∧ t.requests = rest ∧ t.responses = s.responses ++ [r]

/-! ### SET_FIELD (41_shadow.md R79) -/

/-- A successful SET_FIELD that is no software reset: the byte sent has the field's bits from VAL and every other bit
from the shadow; the shadow register becomes that byte, the field's own bits 0 if it is self-clearing (R77); every
other register, and all else, stays. -/
def Obligations.SetFieldWritesAndCommits : Prop :=
  ∀ (s : State) (f : Field) (val : Byte) (c : Ctrl) (d : Vector Byte 7),
    f.ctrl? = some c → s.params.transportPresent = true → s.answer = .ok d →
    (f = .swReset → val.getLsbD 0 = false) →
    ∃ (t : State) (new : Byte), exec (.setField f val) s = .next t ∧
      (∀ i < 8, (InField f i → new.getLsbD i = val.getLsbD (i - f.info.off)) ∧
        (¬InField f i → new.getLsbD i = (s.shadow.get c).getLsbD i)) ∧
      (∀ i < 8, (InField f i ∧ f.info.selfClearing = true → (t.shadow.get c).getLsbD i = false) ∧
        (¬(InField f i ∧ f.info.selfClearing = true) → (t.shadow.get c).getLsbD i = new.getLsbD i)) ∧
      (∀ c', c' ≠ c → t.shadow.get c' = s.shadow.get c') ∧
      t.responses = s.responses ++ [{ byte := new }] ∧
      Traffic s t [.write (0x09 + c.code.setWidth 8) [new] (.ok [])] ∧ SameSetting s t

/-- A successful software reset (R78): CTRL1 is written with bit 7 set, the delay, of at least 15 ms, is called once
after it, the shadow of CTRL1 keeps its other bits with bit 7 at 0, or, with `SW_RESET_CLEARS_SHADOW`, the whole
shadow becomes 0. -/
def Obligations.SoftwareResetSettles : Prop :=
  ∀ (s : State) (val : Byte) (d : Vector Byte 7),
    val.getLsbD 0 = true → s.params.transportPresent = true → s.params.delayPresent = true → s.answer = .ok d →
    ∃ t : State, exec (.setField .swReset val) s = .next t ∧
      (s.params.swResetClearsShadow = true → ∀ c, t.shadow.get c = 0x00) ∧
      (s.params.swResetClearsShadow = false →
        t.shadow.get .ctrl1 = (s.shadow.get .ctrl1 &&& 0x7F) ∧
        ∀ c, c ≠ .ctrl1 → t.shadow.get c = s.shadow.get c) ∧
      t.responses = s.responses ++ [{ byte := s.shadow.get .ctrl1 ||| 0x80 }] ∧
      Traffic s t [.write 0x0A [s.shadow.get .ctrl1 ||| 0x80] (.ok []), .delay s.params.swResetDelayMs] ∧
      15 ≤ s.params.swResetDelayMs.val ∧
      SameSetting s t

/-- R85, which the spec marks [derived: from rule R79 and 00_scope.md rule R15]: a SET_FIELD whose write fails has sent
the shadow byte with the field merged into it, leaves all four shadow registers as they were and makes no delay; the
response carries the port's error value; and every InvalidArgument outcome, of any request, leaves the shadow and
makes no delay likewise. -/
def Obligations.FailedWriteRollsBack : Prop :=
  (∀ (s : State) (f : Field) (val : Byte) (c : Ctrl) (e : Nat),
    f.ctrl? = some c → s.params.transportPresent = true →
    (f = .swReset → val.getLsbD 0 = true → s.params.delayPresent = true) → s.answer = .err e →
    ∃ t : State, exec (.setField f val) s = .next t ∧ t.shadow = s.shadow ∧
      t.responses = s.responses ++ [{ status := .busError, busErr := e }] ∧
      Traffic s t [.write (0x09 + c.code.setWidth 8) [encodeField f (s.shadow.get c) (fieldValue f val)] (.err e)] ∧
      SameSetting s t) ∧
  (∀ (q : Request) (s t : State), serve q s = .next t →
    t.responses = s.responses ++ [{ status := .invalidArgument }] →
    t.shadow = s.shadow ∧ NoTraffic s t)

/-- R51: setting the same value twice writes to the bus both times, and leaves the same shadow as setting it once. By
R77 to R79 both writes send the same byte, the delay of a software reset included; after a software reset that
zeroes the shadow the second write sends `sw_reset` alone. -/
def Obligations.NoWriteElision : Prop :=
  (∀ (s t : State) (f : Field) (val : Byte) (c : Ctrl) (d d' : Vector Byte 7),
    f.ctrl? = some c → s.params.transportPresent = true → s.answer = .ok d →
    (asksSwReset (.setField f val) = true → s.params.delayPresent = true ∧ s.params.swResetClearsShadow = false) →
    exec (.setField f val) s = .next t → t.answer = .ok d' →
    ∃ (u : State) (es : List PortEvent),
      es = .write c.address [encodeField f (s.shadow.get c) (fieldValue f val)] (.ok []) ::
        (if asksSwReset (.setField f val) then [.delay s.params.swResetDelayMs] else []) ∧
      exec (.setField f val) t = .next u ∧ u.shadow = t.shadow ∧
      t.trace = s.trace ++ es ∧ u.trace = t.trace ++ es) ∧
  (∀ (s t : State) (val : Byte) (d d' : Vector Byte 7),
    val.getLsbD 0 = true → s.params.transportPresent = true → s.params.delayPresent = true →
    s.params.swResetClearsShadow = true → s.answer = .ok d →
    exec (.setField .swReset val) s = .next t → t.answer = .ok d' →
    ∃ u : State, exec (.setField .swReset val) t = .next u ∧ u.shadow = t.shadow ∧
      t.trace = s.trace ++
        [.write 0x0A [s.shadow.get .ctrl1 ||| 0x80] (.ok []), .delay s.params.swResetDelayMs] ∧
      u.trace = t.trace ++ [.write 0x0A [0x80] (.ok []), .delay s.params.swResetDelayMs])

/-- Bits of VAL above the field's width are discarded: two values that agree below the width do the same. -/
def Obligations.ValueIsMaskedToWidth : Prop :=
  ∀ (s : State) (f : Field) (x y b : Byte), x.toNat % 2 ^ f.info.width = y.toNat % 2 ^ f.info.width →
    exec (.setField f x) s = exec (.setField f y) s ∧ exec (.fieldEncode f b x) s = exec (.fieldEncode f b y) s

/-! ### GET_FIELD, STATUS_GET, DEVICE_ID_GET (41_shadow.md R80 to R82) -/

/-- GET_FIELD answers the field's bits of the shadow as a number, DECODE_ERROR with the code when the field is cm_freq
and the code is 4 to 7, and does nothing else: no state, no port, and it needs neither the port nor the delay. -/
def Obligations.GetFieldReadsShadow : Prop :=
  ∀ (s : State) (f : Field) (c : Ctrl), f.ctrl? = some c →
    ∃ v : Byte, v.toNat = (s.shadow.get c).toNat / 2 ^ f.info.off % 2 ^ f.info.width ∧
      exec (.getField f) s = .next { s with responses := s.responses ++
        [if f = .cmFreq ∧ 4 ≤ v.toNat then { status := .decodeError, byte := v } else { byte := v }] }

/-- A successful STATUS_GET: one read of 0x08, the whole byte and the three flags; the shadow is not touched. -/
def Obligations.StatusGetReadsFlags : Prop :=
  ∀ (s : State) (d : Vector Byte 7), s.params.transportPresent = true → s.answer = .ok d →
    ∃ (t : State) (r : Response), exec .statusGet s = .next t ∧ t.shadow = s.shadow ∧
      t.responses = s.responses ++ [r] ∧ r = { byte := d[0], flags := r.flags } ∧
      r.flags.getLsbD 2 = d[0].getLsbD 4 ∧ r.flags.getLsbD 1 = d[0].getLsbD 1 ∧
      r.flags.getLsbD 0 = d[0].getLsbD 0 ∧
      Traffic s t [.read 0x08 1 (.ok [d[0]])] ∧ SameSetting s t

/-- A successful DEVICE_ID_GET: one read of 0x2F, the byte as it comes, whether or not it is 0x30. -/
def Obligations.DeviceIdGetReturnsByte : Prop :=
  ∀ (s : State) (d : Vector Byte 7), s.params.transportPresent = true → s.answer = .ok d →
    ∃ t : State, exec .deviceIdGet s = .next t ∧ t.shadow = s.shadow ∧
      t.responses = s.responses ++ [{ byte := d[0] }] ∧
      Traffic s t [.read 0x2F 1 (.ok [d[0]])] ∧ SameSetting s t

/-! ### The codec (42_codec.md) -/

/-- R86: `Encode` merges the value, masked to the width, into the field's bits and keeps every other bit; every field of
the table lies within the byte. -/
def Obligations.EncodeMergesField : Prop :=
  (∀ (b v : Byte) (off w : Nat), off + w ≤ 8 →
    (encodeBits b off w v).toNat + b.toNat / 2 ^ off % 2 ^ w * 2 ^ off = b.toNat + v.toNat % 2 ^ w * 2 ^ off) ∧
  (∀ f : Field, f.info.off + f.info.width ≤ 8)

/-- R87: `Decode` is `(b >> off) & mask(w)`, and bits outside the field do not affect it. -/
def Obligations.DecodeExtractsField : Prop :=
  (∀ (b : Byte) (off w : Nat), (decodeBits b off w).toNat = b.toNat / 2 ^ off % 2 ^ w) ∧
  (∀ (b b' : Byte) (off w : Nat), (∀ i, off ≤ i → i < off + w → b.getLsbD i = b'.getLsbD i) →
    decodeBits b off w = decodeBits b' off w)

/-- R91, which the spec marks [derived: from rules R86 and R87 and the table of R65]: the four laws of the codec, for
every field, byte and value; and the bits each register's fields use, no bit in two fields. -/
def Obligations.CodecLaws : Prop :=
  (∀ (f : Field) (b v : Byte),
    decodeBits (encodeBits b f.info.off f.info.width v) f.info.off f.info.width = v &&& mask f.info.width ∧
    encodeBits b f.info.off f.info.width (decodeBits b f.info.off f.info.width) = b ∧
    (∀ g : Field, g.reg = f.reg → g ≠ f →
      decodeBits (encodeBits b f.info.off f.info.width v) g.info.off g.info.width =
        decodeBits b g.info.off g.info.width) ∧
    (∀ i, ¬InField f i → (encodeBits b f.info.off f.info.width v).getLsbD i = b.getLsbD i)) ∧
  (∀ (f g : Field) (i : Nat), f.reg = g.reg → InField f i → InField g i → f = g) ∧
  (∀ i, (∃ f : Field, f.reg = .ctrl .ctrl0 ∧ InField f i) ↔ i ∈ [0, 1, 2, 3, 4, 5, 6]) ∧
  (∀ i, (∃ f : Field, f.reg = .ctrl .ctrl1 ∧ InField f i) ↔ i ∈ [1, 0, 2, 4, 3, 7]) ∧
  (∀ i, (∃ f : Field, f.reg = .ctrl .ctrl2 ∧ InField f i) ↔ i ∈ [2, 1, 0, 3, 6, 5, 4, 7]) ∧
  (∀ i, (∃ f : Field, f.reg = .ctrl .ctrl3 ∧ InField f i) ↔ i ∈ [2, 3, 6]) ∧
  (∀ i, (∃ f : Field, f.reg = .status ∧ InField f i) ↔ i ∈ [0, 1, 4])

/-- FIELD_ENCODE answers OK with VAL's low bits in the field's place and BYTE's bits elsewhere, for every field, STATUS
fields and cm_freq codes 4 to 7 included; it changes nothing and needs neither port nor delay. -/
def Obligations.FieldEncodeMerges : Prop :=
  ∀ (s : State) (f : Field) (b val : Byte), ∃ new : Byte,
    (∀ i < 8, (InField f i → new.getLsbD i = val.getLsbD (i - f.info.off)) ∧
      (¬InField f i → new.getLsbD i = b.getLsbD i)) ∧
    exec (.fieldEncode f b val) s = .next { s with responses := s.responses ++ [{ byte := new }] }

/-- FIELD_DECODE answers the field's bits of BYTE as a number, DECODE_ERROR with the code for cm_freq codes 4 to 7; it
changes nothing and needs neither port nor delay. -/
def Obligations.FieldDecodeExtracts : Prop :=
  ∀ (s : State) (f : Field) (b : Byte), ∃ v : Byte,
    v.toNat = b.toNat / 2 ^ f.info.off % 2 ^ f.info.width ∧
    exec (.fieldDecode f b) s = .next { s with responses := s.responses ++
      [if f = .cmFreq ∧ 4 ≤ v.toNat then { status := .decodeError, byte := v } else { byte := v }] }

/-! ### The measurement pipeline (43_measurement.md) -/

/-- R92: the raw magnitude of high byte, low byte and extension group, in the range of 18 bits. -/
def Obligations.AssembledMagnitude : Prop :=
  ∀ (hi lo : Byte) (e2 : BitVec 2),
    (assemble hi lo e2).toNat = hi.toNat * 2 ^ 10 + lo.toNat * 2 ^ 2 + e2.toNat ∧
    (assemble hi lo e2).toNat ≤ 0x3FFFF

/-- A successful READ_RAW: one burst of seven registers from 0x00, all seven bytes, and the three magnitudes with the
high byte where `AXIS_HIGH_BYTE_OFFSET` puts it; bits 1:0 of the extension byte reach no magnitude. -/
def Obligations.ReadRawAssembles : Prop :=
  ∀ (s : State) (d : Vector Byte 7), s.params.transportPresent = true → s.answer = .ok d →
    ∃ (t : State) (r : Response), exec .readRaw s = .next t ∧ t.shadow = s.shadow ∧
      t.responses = s.responses ++ [r] ∧ r = { bytes := d, raw := r.raw } ∧
      (s.params.axisHighByteOffset = 0 →
        r.raw.x.toNat = 1024 * d[0].toNat + 4 * d[1].toNat + d[6].toNat / 64 ∧
        r.raw.y.toNat = 1024 * d[2].toNat + 4 * d[3].toNat + d[6].toNat / 16 % 4 ∧
        r.raw.z.toNat = 1024 * d[4].toNat + 4 * d[5].toNat + d[6].toNat / 4 % 4) ∧
      (s.params.axisHighByteOffset = 1 →
        r.raw.x.toNat = 1024 * d[1].toNat + 4 * d[0].toNat + d[6].toNat / 64 ∧
        r.raw.y.toNat = 1024 * d[3].toNat + 4 * d[2].toNat + d[6].toNat / 16 % 4 ∧
        r.raw.z.toNat = 1024 * d[5].toNat + 4 * d[4].toNat + d[6].toNat / 4 % 4) ∧
      Traffic s t [.read 0x00 7 (.ok d.toList)] ∧ SameSetting s t

/-- A read that the port fails answers BUS_ERROR with the port's error value and nothing else: no partial burst, the
shadow as it was, one attempt. -/
def Obligations.FailedReadAnswersBusError : Prop :=
  ∀ (s : State) (e : Nat), s.params.transportPresent = true → s.answer = .err e →
    ∀ (i : Instr) (addr : Byte) (n : Nat),
      (i = .statusGet ∧ addr = 0x08 ∧ n = 1) ∨ (i = .deviceIdGet ∧ addr = 0x2F ∧ n = 1) ∨
        (i = .readRaw ∧ addr = 0x00 ∧ n = 7) →
      ∃ t : State, exec i s = .next t ∧ t.shadow = s.shadow ∧
        t.responses = s.responses ++ [{ status := .busError, busErr := e }] ∧
        Traffic s t [.read addr n (.err e)] ∧ SameSetting s t

/-- R95, of which the spec marks the equality of patterns [derived]: the signed offset of a raw magnitude lies in the
18-bit two's-complement range, its pattern is the raw one with the top bit flipped, and mid-scale is zero field. -/
def Obligations.OffsetBinary : Prop :=
  (∀ r : Raw, offset r = (r.toNat : Int) - 131072 ∧ -131072 ≤ offset r ∧ offset r ≤ 131071 ∧
    BitVec.ofInt 18 (offset r) = r ^^^ 0x20000) ∧
  offset 0x20000 = 0

/-- TO_PHYSICAL answers OK with each lane's exact Gauss and microtesla integers, for every raw value; it reads no state,
changes nothing and needs neither port nor delay. -/
def Obligations.ToPhysicalConverts : Prop :=
  ∀ (s : State) (rx ry rz : Raw), ∃ r : Response,
    exec (.toPhysical rx ry rz) s = .next { s with responses := s.responses ++ [r] } ∧
    r = { gauss := r.gauss, ut := r.ut } ∧
    r.gauss.x.toInt = (rx.toNat : Int) - 131072 ∧ r.ut.x.toInt = 25 * ((rx.toNat : Int) - 131072) ∧
    r.gauss.y.toInt = (ry.toNat : Int) - 131072 ∧ r.ut.y.toInt = 25 * ((ry.toNat : Int) - 131072) ∧
    r.gauss.z.toInt = (rz.toNat : Int) - 131072 ∧ r.ut.z.toInt = 25 * ((rz.toNat : Int) - 131072)

/-- The values the patterns stand for: Gauss is exactly `-8 + raw/16384` and lies between -8 and 131071/16384;
microtesla is exactly 100 times it. (The factor 100 is the spec's general knowledge, D10.) -/
def Obligations.PhysicalValuesExact : Prop :=
  ∀ r : Raw,
    gaussValue (gaussOf r) = -8 + (r.toNat : ℚ) / 16384 ∧
    -8 ≤ gaussValue (gaussOf r) ∧ gaussValue (gaussOf r) ≤ 131071 / 16384 ∧
    utValue (utOf r) = 25 * (offset r : ℚ) / 4096 ∧ utValue (utOf r) = 100 * gaussValue (gaussOf r) ∧
    -3276800 ≤ 25 * offset r ∧ 25 * offset r ≤ 3276775

/-- R100, which the spec marks [derived: from rules R95 to R97]: the four numeric laws of the conversion. The float
clauses of law 2 are the model's choice of how to say it (DESIGN CHOICE, log entry 15): they are for every function
on the rationals that leaves the numbers of the format as they are, binary32 or binary64, in place of IEEE rounding
to nearest. -/
def Obligations.ConversionLaws : Prop :=
  ∀ r : Raw,
    gaussValue (gaussOf r) = -8 + (r.toNat : ℚ) / 16384 ∧
    (∀ round : ℚ → ℚ, binary32.Rounds round →
      floatGauss round r = gaussValue (gaussOf r) ∧ floatUt round r = utValue (utOf r)) ∧
    (∀ round : ℚ → ℚ, binary64.Rounds round → floatGauss round r = gaussValue (gaussOf r)) ∧
    (∀ r' : Raw, r'.toNat = r.toNat + 1 → gaussValue (gaussOf r') - gaussValue (gaussOf r) = 1 / 16384) ∧
    offset (0x3FFFF - r) = -offset r - 1

/-- R99, which the spec marks [derived: from rules R94 and R98]: the lanes of READ_RAW are independent: an axis's
magnitude depends only on its own two bytes and its own group of the extension byte. -/
def Obligations.LanesIndependent : Prop :=
  ∀ (s s' t t' : State) (r r' : Response) (d d' : Vector Byte 7) (a : Axis),
    s.params.transportPresent = true → s'.params.transportPresent = true →
    s.params.axisHighByteOffset = s'.params.axisHighByteOffset → s.answer = .ok d → s'.answer = .ok d' →
    (∀ i : Fin 7, i.val = 2 * a.index.val ∨ i.val = 2 * a.index.val + 1 → d[i] = d'[i]) →
    (∀ k, k < 2 → d[6].getLsbD (6 - 2 * a.index.val + k) = d'[6].getLsbD (6 - 2 * a.index.val + k)) →
    exec .readRaw s = .next t → exec .readRaw s' = .next t' →
    t.responses = s.responses ++ [r] → t'.responses = s'.responses ++ [r'] → r.raw.get a = r'.raw.get a

/-- READ_FIELD, end to end (R75): the Requester presents READ_RAW; if it answers OK, the Requester presents TO_PHYSICAL
on the magnitudes of that response, which answers OK with exactly their Gauss and microtesla values; if READ_RAW
fails, for want of a port or on a bus error, no second request is presented. That both requests stand in front of
those that wait is the model's choice (DESIGN CHOICE, log entry 16). -/
def Obligations.ReadFieldConvertsWhatWasRead : Prop :=
  (∀ (s : State) (d : Vector Byte 7), s.params.transportPresent = true → s.answer = .ok d →
    ∃ (t u : State) (r r' : Response) (q : Request),
      step (s.presentNext readFieldFirst) = .next t ∧ t.responses = s.responses ++ [r] ∧
      r = { bytes := d, raw := r.raw } ∧ readFieldSecond r = some q ∧
      step (t.presentNext q) = .next u ∧ runReadField s = .next u ∧
      u.responses = s.responses ++ [r, r'] ∧ r' = { gauss := r'.gauss, ut := r'.ut } ∧
      (∀ a : Axis, (r'.gauss.get a).toInt = ((r.raw.get a).toNat : Int) - 131072 ∧
        (r'.ut.get a).toInt = 25 * (((r.raw.get a).toNat : Int) - 131072)) ∧
      u.shadow = s.shadow ∧ Traffic s u [.read 0x00 7 (.ok d.toList)] ∧ SameSetting s u) ∧
  (∀ s : State, (s.params.transportPresent = false ∨ ∃ e, s.answer = .err e) →
    ∃ (t : State) (r : Response), step (s.presentNext readFieldFirst) = .next t ∧
      t.responses = s.responses ++ [r] ∧ r.status ≠ .ok ∧ readFieldSecond r = none ∧ runReadField s = .next t)

/-! ### Errors (60_exceptions.md) -/

/-- R103: InvalidArgument is raised for exactly the five causes, and then nothing but the response changes: no bus
access, no side effect. -/
def Obligations.InvalidArgumentCauses : Prop :=
  ∀ (q : Request) (s : State), ∃ (t : State) (r : Response),
    serve q s = .next t ∧ t.responses = s.responses ++ [r] ∧
    (r.status = .invalidArgument ↔
      ReservedOp q.cmd ∨ ¬UnusedZero q.cmd ∨ UnacceptedPair q.cmd ∨ PortMissing q.cmd s.params ∨
        DelayMissing q.cmd s.params) ∧
    (r.status = .invalidArgument →
      t = { s with responses := s.responses ++ [{ status := .invalidArgument }] })

/-- The operations that need the port answer InvalidArgument without it; a software reset without the delay primitive
does so too; so does SET_FIELD or GET_FIELD of a STATUS field, which no word spells, and for which `exec` doing so
is the model's choice (DEDUCED, log entry 14); and no other instruction does. -/
def Obligations.RefusedInstructions : Prop :=
  ∀ (i : Instr) (s : State),
    (exec i s = .next { s with responses := s.responses ++ [{ status := .invalidArgument }] } ↔
      refusedFor s.params i = true)

/-- R76: without a Transport Port, SET_FIELD, STATUS_GET, DEVICE_ID_GET and READ_RAW answer InvalidArgument before any
bus access; GET_FIELD, FIELD_ENCODE, FIELD_DECODE and TO_PHYSICAL do the same with it and without it. -/
def Obligations.PortPresenceCheck : Prop :=
  ∀ (i : Instr) (s : State),
    (usesPort i = true → s.params.transportPresent = false →
      exec i s = .next { s with responses := s.responses ++ [{ status := .invalidArgument }] }) ∧
    (usesPort i = false → ∀ b : Bool, ∃ t : State, exec i s = .next t ∧
      exec i { s with params := { s.params with transportPresent := b } } =
        .next { t with params := { t.params with transportPresent := b } })

/-- R104: BusError is raised exactly when the port answers the operation's one transaction with an error value, which
the response carries unchanged, within `BUS_ERR_WIDTH` bits; there is no second attempt. -/
def Obligations.BusErrorVerbatim : Prop :=
  ∀ (i : Instr) (s : State), ∃ (t : State) (r : Response),
    exec i s = .next t ∧ t.responses = s.responses ++ [r] ∧
    (r.status = .busError ↔
      usesPort i = true ∧ refusedFor s.params i = false ∧ ∃ e, s.answer = .err e) ∧
    (r.status = .busError → s.answer = .err r.busErr ∧ r.busErr < 2 ^ s.params.busErrWidth ∧
      ∃ e, t.trace = s.trace ++ [e])

/-- R105: DecodeError is raised exactly when GET_FIELD or FIELD_DECODE decodes cm_freq and finds a code from 4 to 7;
bandwidth and encoding never raise it. -/
def Obligations.DecodeErrorCauses : Prop :=
  ∀ (i : Instr) (s : State), ∃ (t : State) (r : Response),
    exec i s = .next t ∧ t.responses = s.responses ++ [r] ∧
    (r.status = .decodeError ↔
      (i = .getField .cmFreq ∧ 4 ≤ s.shadow.ctrl2.toNat % 8) ∨
        ∃ b : Byte, i = .fieldDecode .cmFreq b ∧ 4 ≤ b.toNat % 8)

/-- An error changes no state but the response and, for a failed transaction, the trace, which gets that one
transaction; no delay is made. -/
def Obligations.ErrorsChangeNothing : Prop :=
  ∀ (i : Instr) (s t : State) (r : Response), exec i s = .next t → t.responses = s.responses ++ [r] →
    r.status ≠ .ok →
    t.shadow = s.shadow ∧ SameSetting s t ∧
    (r.status ≠ .busError → NoTraffic s t) ∧
    (r.status = .busError → ∃ e, Traffic s t [e] ∧ ∀ ms, e ≠ .delay ms)

/-- R45: the transactions and the delay of each operation, and none for a rejected request; the byte that SET_FIELD
sends, whether or not the write succeeds, is the shadow byte with the field merged into it. -/
def Obligations.TransactionsOfEachOperation : Prop :=
  (∀ (i : Instr) (s t : State), exec i s = .next t →
    ∃ es : List PortEvent, t.trace = s.trace ++ es ∧
      (refusedFor s.params i = true → es = []) ∧
      (refusedFor s.params i = false →
        match i with
        | .setField f val => ∃ (c : Ctrl) (b : Byte), f.ctrl? = some c ∧
            b = encodeField f (s.shadow.get c) (fieldValue f val) ∧
            ((∃ e, s.answer = .err e ∧ es = [.write (0x09 + c.code.setWidth 8) [b] (.err e)]) ∨
             (∃ d, s.answer = .ok d ∧ asksSwReset (.setField f val) = false ∧
               es = [.write (0x09 + c.code.setWidth 8) [b] (.ok [])]) ∨
             (∃ d, s.answer = .ok d ∧ asksSwReset (.setField f val) = true ∧
               es = [.write (0x09 + c.code.setWidth 8) [b] (.ok []), .delay s.params.swResetDelayMs]))
        | .getField _ => es = []
        | .statusGet => ∃ reply, es = [.read 0x08 1 reply]
        | .deviceIdGet => ∃ reply, es = [.read 0x2F 1 reply]
        | .fieldEncode _ _ _ => es = []
        | .fieldDecode _ _ => es = []
        | .readRaw => ∃ reply, es = [.read 0x00 7 reply]
        | .toPhysical _ _ _ => es = [])) ∧
  (∀ (q : Request) (s t : State), ¬LegalWord q.cmd → serve q s = .next t → t.trace = s.trace)

/-- R30 and R33: the device registers have the addresses of the table; whatever register a transaction touches is one
that the operation uses; the control registers, and no others, are written, and they are never read. -/
def Obligations.DeviceRegistersTouched : Prop :=
  (∀ i : Fin 7, (DeviceRegister.output i).address.toNat = i.val) ∧
  DeviceRegister.temperature.address = 0x07 ∧ DeviceRegister.status.address = 0x08 ∧
  (∀ c, (DeviceRegister.control c).address = 0x09 + c.code.setWidth 8) ∧ DeviceRegister.identity.address = 0x2F ∧
  ∀ (i : Instr) (s t : State) (es : List PortEvent), exec i s = .next t → t.trace = s.trace ++ es →
    ∀ e ∈ es, ∀ a ∈ e.addresses, ∃ r : DeviceRegister,
      r.address.toNat = a ∧ UsesRegister i r ∧ (e.isWrite = true ↔ ∃ c, r = .control c)

/-! ### State and what it depends on (10_state.md) -/

/-- Only SET_FIELD changes the shadow; and no instruction but SET_FIELD and GET_FIELD answers or does anything that
depends on it. -/
def Obligations.ShadowAccess : Prop :=
  (∀ (i : Instr) (s t : State), exec i s = .next t → t.shadow ≠ s.shadow → ∃ f val, i = .setField f val) ∧
  (∀ (i : Instr) (s t : State) (sh : Shadow), (∀ f val, i ≠ .setField f val) → (∀ f, i ≠ .getField f) →
    exec i s = .next t → exec i { s with shadow := sh } = .next { t with shadow := sh })

/-- Nothing but the shadow survives from one request to the next (R17): two machines that agree on the shadow, the
parameters and the port's next answer give the same response, the same traffic and the same shadow, whatever was
asked before. -/
def Obligations.OnlyShadowSurvives : Prop :=
  ∀ (i : Instr) (s s' : State), s.shadow = s'.shadow → s.params = s'.params → s.answer = s'.answer →
    ∃ (t t' : State) (r : Response) (es : List PortEvent),
      exec i s = .next t ∧ exec i s' = .next t' ∧ t.shadow = t'.shadow ∧
      t.responses = s.responses ++ [r] ∧ t'.responses = s'.responses ++ [r] ∧
      t.trace = s.trace ++ es ∧ t'.trace = s'.trace ++ es

/-- No step changes a parameter. -/
def Obligations.ParametersAreStatic : Prop :=
  ∀ s t : State, step s = .next t → t.params = s.params

/-- R84, which the spec marks [derived: from rules R77 and R79]: after any SET_FIELD that succeeds on a self-clearing
field, an immediate GET_FIELD of it returns 0 with no bus write; and every self-clearing bit of the shadow stays 0
from step to step, from reset on. -/
def Obligations.SelfClearInvariant : Prop :=
  (∀ (s t : State) (f : Field) (val : Byte) (r : Response), f ∈ [.swReset, .tmM, .tmT, .set, .reset] →
    exec (.setField f val) s = .next t → t.responses = s.responses ++ [r] → r.status = .ok →
    exec (.getField f) t = .next { t with responses := t.responses ++ [{ byte := 0 }] }) ∧
  (∀ s t : State, s.shadow.StrobesClear → step s = .next t → t.shadow.StrobesClear) ∧
  (∀ p : Params, (State.resetWith p).shadow.StrobesClear)

/-! ### Invariants that every step keeps -/

/-- R21, which the spec marks [derived: from rules R36 and R86]: every bit of the shadow that no field covers is 0 after
reset and after every step. -/
def Obligations.UnlistedBitsStayZero : Prop :=
  (∀ s t : State, s.shadow.UnlistedClear → step s = .next t → t.shadow.UnlistedClear) ∧
  (∀ p : Params, (State.resetWith p).shadow.UnlistedClear)

/-- The shadow is at every moment what the successful writes of the trace imply. -/
def Obligations.ShadowMirrorsTheWrites : Prop :=
  ∀ s t : State, s.shadow.Clean → s.shadow = replay s.params.swResetClearsShadow s.trace → step s = .next t →
    t.shadow.Clean ∧ t.shadow = replay t.params.swResetClearsShadow t.trace

/-- R20, which the spec marks [derived: from rules R79 and R36]: where the invariant holds, a shadow register is the
last byte successfully written to its control register with the self-clearing bits 0, or the reset value if none was
(for the default, a software reset that does not clear the shadow). -/
def Obligations.ShadowHoldsLastWrite : Prop :=
  ∀ (s : State) (c : Ctrl), s.Inv → s.params.swResetClearsShadow = false →
    (∀ b, lastWritten c s.trace = some b → s.shadow.get c = b &&& ~~~(strobeBits c)) ∧
    (lastWritten c s.trace = none → s.shadow.get c = 0x00)

/-- Every event of the trace stays one that the spec allows: the addresses, lengths and delay of R45's table, replies of
the right length (R50), and error values of `BUS_ERR_WIDTH` bits (R7, R104; that the model cuts them to that width
at the port is its own reading, DEDUCED, log entry 4). -/
def Obligations.TraceStaysLegal : Prop :=
  ∀ s t : State, (∀ e ∈ s.trace, e.Legal s.params) → step s = .next t → ∀ e ∈ t.trace, e.Legal t.params

/-- Every software reset is followed at once by one settle delay, before any other transaction, and no delay stands
anywhere else. -/
def Obligations.SoftwareResetsStaySettled : Prop :=
  ∀ s t : State, s.shadow.StrobesClear → Settled s → step s = .next t → Settled t

/-- Every response carries what its outcome carries and nothing else, within its widths (the width of an error value:
DEDUCED, log entry 4). -/
def Obligations.ResponsesStayInForm : Prop :=
  ∀ s t : State, (∀ r ∈ s.responses, r.Fits s.params.busErrWidth) → step s = .next t →
    ∀ r ∈ t.responses, r.Fits t.params.busErrWidth

/-- The whole invariant is kept by every step (it includes the width of error values: DEDUCED, log entry 4). -/
def Obligations.StepKeepsInvariant : Prop :=
  ∀ s t : State, s.Inv → step s = .next t → t.Inv

/-- The whole invariant holds at reset, with any parameters. -/
def Obligations.ResetMeetsInvariant : Prop :=
  ∀ p : Params, (State.resetWith p).Inv

/-- R36: every shadow register resets to 0x00; and a reset makes no transaction and no delay, and leaves no request in
flight. -/
def Obligations.ResetValues : Prop :=
  ∀ (p : Params) (c : Ctrl), (State.resetWith p).shadow.get c = 0x00 ∧ (State.resetWith p).params = p ∧
    (State.resetWith p).trace = [] ∧ (State.resetWith p).requests = [] ∧ (State.resetWith p).responses = []

/-- R83, which the spec marks [derived: from rules R79, R80 and R91]: in every state, a served request whose write does
not fail takes the shadow's value of a field that is not self-clearing to the value R83 gives: the masked value set,
if it is a SET_FIELD of that field, 0 if it is a software reset that clears the shadow, else the value before. So
after any list of requests from reset in which no write fails (and SET_FIELD is not refused for want of the port or
the delay), GET_FIELD returns the masked value of the last SET_FIELD to the field, 0 if there was none or if a
software reset that clears the shadow came since. -/
def Obligations.ShadowBusConsistency : Prop :=
  (∀ (q : Request) (s t : State) (f : Field) (c : Ctrl),
    f.ctrl? = some c → f.info.selfClearing = false →
    s.params.transportPresent = true → s.params.delayPresent = true → serve q s = .next t →
    (∀ e ∈ t.trace.drop s.trace.length, e.failedWrite = false) →
    decodeField f (t.shadow.get c) =
      ((decode? q).elim (decodeField f (s.shadow.get c))
        (expectedAfter s.params.swResetClearsShadow f (decodeField f (s.shadow.get c))))) ∧
  (∀ (p : Params) (answers : List PortAnswer) (draws : Nat) (qs : List Request) (t : State) (f : Field),
      f.shadowed = true → f.info.selfClearing = false →
      p.transportPresent = true → p.delayPresent = true →
      runRequests qs { State.resetWith p with answers := answers, draws := draws } = some t →
      (∀ e ∈ t.trace, e.failedWrite = false) →
      ∃ (u : State) (r : Response), exec (.getField f) t = .next u ∧ u.responses = t.responses ++ [r] ∧
        r.byte = expectedValue p.swResetClearsShadow f (qs.filterMap decode?))

/-! ### The field table (30_encoding.md R65) -/

/-- R65: the table's 21 rows, in numbers, are the fields' names, REG, FLD, offset, width, self-clearing mark and domain,
every field has a row, and a pair in no row is unknown; and the FIELD_DECODE and FIELD_ENCODE words put together
from a row's REG and FLD read and write the bits that the row's offset and width give. -/
def Obligations.FieldTable : Prop :=
  fieldTable.length = 21 ∧ (∀ f : Field, ∃ row ∈ fieldTable, row.field = f) ∧
  (∀ reg fld : BitVec 3, Field.ofCode reg fld = none ↔
    ∀ row ∈ fieldTable, ¬(row.reg = reg.toNat ∧ row.fld = fld.toNat)) ∧
  ∀ row ∈ fieldTable,
    Reg.name row.field.reg ++ "." ++ Field.name row.field = row.name ∧
    row.field.reg.code.toNat = row.reg ∧ row.field.index.toNat = row.fld ∧
    row.field.info = ⟨row.off, row.width, row.selfClearing, row.domain⟩ ∧
    (∀ (s : State) (b : Byte) (x : BitVec 54), ∃ r : Response,
      serve ⟨BitVec.ofNat 32 (0x60000000 + row.reg * 2 ^ 25 + row.fld * 2 ^ 22 + b.toNat * 2 ^ 8), x⟩ s =
        .next { s with responses := s.responses ++ [r] } ∧
      r = { status := r.status, byte := r.byte } ∧
      r.byte.toNat = b.toNat / 2 ^ row.off % 2 ^ row.width ∧
      r.status = if row.domain.all fun codes => codes.contains r.byte.toNat then .ok else .decodeError) ∧
    (∀ (s : State) (b v : Byte) (x : BitVec 54), ∃ new : Byte,
      serve ⟨BitVec.ofNat 32 (0x50000000 + row.reg * 2 ^ 25 + row.fld * 2 ^ 22 + b.toNat * 2 ^ 8 + v.toNat), x⟩ s =
        .next { s with responses := s.responses ++ [{ byte := new }] } ∧
      new.toNat + b.toNat / 2 ^ row.off % 2 ^ row.width * 2 ^ row.off =
        b.toNat + v.toNat % 2 ^ row.width * 2 ^ row.off)
end

