-- ==== Sys2Proof/Laws/Codec.lean ====
section
/-! SUPPORT. The codec's operations bit by bit, and the facts about the field table that the proofs need. -/
namespace Sys2Proof.Machine

/-! ### The field table -/

theorem Field.fits (f : Field) : f.info.off + f.info.width ≤ 8 := by cases f <;> decide

theorem Field.width_pos (f : Field) : 1 ≤ f.info.width := by cases f <;> decide

theorem Field.width_le (f : Field) : f.info.width ≤ 3 := by cases f <;> decide

theorem Field.mem_all (f : Field) : f ∈ Field.all := by cases f <;> decide

theorem Field.ctrl_of_shadowed {f : Field} (h : f.shadowed = true) : ∃ c, f.ctrl? = some c :=
  Option.isSome_iff_exists.mp h

theorem Field.shadowed_of_ctrl {f : Field} {c : Ctrl} (h : f.ctrl? = some c) : f.shadowed = true := by
  simp [Field.shadowed, h]

theorem Ctrl.address_eq (c : Ctrl) : c.address = 0x09 + c.code.setWidth 8 := by cases c <;> decide

@[simp] theorem ctrlAt_address (c : Ctrl) : ctrlAt c.address = some c := by cases c <;> decide

/-! ### Masks -/

theorem mask_getLsbD (w i : Nat) : (mask w).getLsbD i = (decide (i < 8) && decide (i < w)) := by
  simp [mask, BitVec.getLsbD_ofNat, Nat.testBit_two_pow_sub_one]

theorem fieldBits_getLsbD (f : Field) (i : Nat) :
    (fieldBits f).getLsbD i = (decide (i < 8) && decide (f.info.off ≤ i) && decide (i < f.info.off + f.info.width)) := by
  have := Field.fits f
  simp only [fieldBits, BitVec.getLsbD_shiftLeft, mask_getLsbD]
  by_cases h1 : i < 8 <;> by_cases h2 : f.info.off ≤ i <;> by_cases h3 : i < f.info.off + f.info.width <;>
    simp [h1, h2, h3] <;> omega

/-! ### `Encode` and `Decode` -/

theorem decodeBits_getLsbD (b : Byte) (off w i : Nat) :
    (decodeBits b off w).getLsbD i = (b.getLsbD (off + i) && decide (i < 8) && decide (i < w)) := by
  simp [decodeBits, mask_getLsbD, Bool.and_assoc]

theorem encodeBits_getLsbD (b : Byte) (off w : Nat) (v : Byte) (hw : off + w ≤ 8) (i : Nat) :
    (encodeBits b off w v).getLsbD i =
      if off ≤ i ∧ i < off + w then v.getLsbD (i - off) else b.getLsbD i := by
  simp only [encodeBits, BitVec.getLsbD_or, BitVec.getLsbD_and, BitVec.getLsbD_not, BitVec.getLsbD_shiftLeft,
    mask_getLsbD]
  by_cases h1 : i < 8
  · by_cases h2 : off ≤ i
    · by_cases h3 : i < off + w
      · have h4 : i - off < w := by omega
        have h5 : i - off < 8 := by omega
        simp [h1, h3, h4, h5, Nat.not_lt.mpr h2]
      · have h4 : ¬ i - off < w := by omega
        simp [h1, h2, h3, h4]
    · have h4 : i < off := by omega
      simp [h1, h2, h4]
  · have h6 : ¬ (off ≤ i ∧ i < off + w) := by omega
    simp [h1, h6, BitVec.getLsbD_of_ge b i (by omega)]

theorem fieldValue_getLsbD (f : Field) (val : Byte) (i : Nat) :
    (fieldValue f val).getLsbD i = (val.getLsbD i && decide (i < f.info.width)) := by
  have := Field.width_le f
  simp only [fieldValue, BitVec.getLsbD_and, mask_getLsbD]
  by_cases h : i < 8
  · simp [h]
  · simp [h, BitVec.getLsbD_of_ge val i (by omega)]

theorem encodeField_getLsbD (f : Field) (b v : Byte) (i : Nat) :
    (encodeField f b v).getLsbD i =
      if f.info.off ≤ i ∧ i < f.info.off + f.info.width then v.getLsbD (i - f.info.off) else b.getLsbD i :=
  encodeBits_getLsbD b _ _ v (Field.fits f) i

theorem decodeField_getLsbD (f : Field) (b : Byte) (i : Nat) :
    (decodeField f b).getLsbD i = (b.getLsbD (f.info.off + i) && decide (i < 8) && decide (i < f.info.width)) :=
  decodeBits_getLsbD b _ _ i

/-- A field value cut once is cut for good. -/
@[simp] theorem fieldValue_idem (f : Field) (val : Byte) : fieldValue f (fieldValue f val) = fieldValue f val := by
  apply BitVec.eq_of_getLsbD_eq
  intro i _
  simp only [fieldValue_getLsbD, Bool.and_assoc, Bool.and_self]

/-- Only cm_freq has codes outside its domain (R88). -/
theorem inDomain_of_ne {f : Field} (h : f ≠ .cmFreq) (b : Byte) : inDomain f (decodeField f b) = true := by
  revert b
  cases f <;> first | exact absurd rfl h | (intro b; rfl) | decide

/-- For cm_freq the domain is the codes up to 3 (R29, R88). -/
theorem inDomain_cmFreq (v : Byte) : inDomain .cmFreq v = decide (v.toNat ≤ 3) := by
  revert v; decide

/-! ### Raw words -/

/-- The three parts of a raw magnitude stand side by side: bits 17:10, 9:2 and 1:0 (R92). -/
theorem assemble_getLsbD (hi lo : Byte) (e2 : BitVec 2) (i : Nat) :
    (assemble hi lo e2).getLsbD i =
      if i < 2 then e2.getLsbD i else if i < 10 then lo.getLsbD (i - 2) else hi.getLsbD (i - 10) := by
  simp only [assemble, BitVec.getLsbD_or, BitVec.getLsbD_shiftLeft, BitVec.getLsbD_setWidth]
  by_cases h18 : i < 18
  · by_cases h2 : i < 2
    · simp [h2, h18, show i < 10 by omega]
    · by_cases h10 : i < 10
      · simp [h2, h10, h18, BitVec.getLsbD_of_ge e2 i (by omega), show i - 2 < 18 by omega]
      · simp [h2, h10, h18, BitVec.getLsbD_of_ge e2 i (by omega), BitVec.getLsbD_of_ge lo (i - 2) (by omega),
          show i - 10 < 18 by omega]
  · simp [h18, show ¬ i < 2 by omega, show ¬ i < 10 by omega, BitVec.getLsbD_of_ge hi (i - 10) (by omega)]

end Sys2Proof.Machine
end

