-- ==== Sys2Proof/Laws/Decode.lean ====
section
/-! SUPPORT. The command word field by field, and what the rows of the opcode table say of a word's fields. -/
namespace Sys2Proof

/-! ### The fields of a word put together -/

theorem cmdWord_getLsbD (op : Opcode) (reg fld : BitVec 3) (byte val : Byte) (i : Nat) :
    (cmdWord op reg fld byte val).getLsbD i =
      if i < 8 then val.getLsbD i
      else if i < 16 then byte.getLsbD (i - 8)
      else if i < 22 then false
      else if i < 25 then fld.getLsbD (i - 22)
      else if i < 28 then reg.getLsbD (i - 25)
      else op.code.getLsbD (i - 28) := by
  simp only [cmdWord, BitVec.getLsbD_append]
  by_cases h1 : i < 8
  · rw [if_pos h1, if_pos h1]
  rw [if_neg h1, if_neg h1]
  by_cases h2 : i < 16
  · rw [if_pos h2, if_pos (by omega)]
  rw [if_neg h2, if_neg (by omega)]
  by_cases h3 : i < 22
  · rw [if_pos h3, if_pos (by omega)]
    exact BitVec.getLsbD_zero
  rw [if_neg h3, if_neg (by omega)]
  by_cases h4 : i < 25
  · rw [if_pos h4, if_pos (by omega), show i - 8 - 8 - 6 = i - 22 by omega]
  rw [if_neg h4, if_neg (by omega)]
  by_cases h5 : i < 28
  · rw [if_pos h5, if_pos (by omega), show i - 8 - 8 - 6 - 3 = i - 25 by omega]
  · rw [if_neg h5, if_neg (by omega), show i - 8 - 8 - 6 - 3 - 3 = i - 28 by omega]

section
variable (op : Opcode) (reg fld : BitVec 3) (byte val : Byte)

@[simp] theorem cmdOp_cmdWord : cmdOp (cmdWord op reg fld byte val) = op.code := by
  apply BitVec.eq_of_getLsbD_eq
  intro i hi
  simp only [cmdOp, BitVec.getLsbD_extractLsb', cmdWord_getLsbD]
  simp [hi, show ¬ 28 + i < 8 by omega, show ¬ 28 + i < 16 by omega, show ¬ 28 + i < 22 by omega,
    show ¬ 28 + i < 25 by omega, show ¬ 28 + i < 28 by omega]

@[simp] theorem cmdReg_cmdWord : cmdReg (cmdWord op reg fld byte val) = reg := by
  apply BitVec.eq_of_getLsbD_eq
  intro i hi
  simp only [cmdReg, BitVec.getLsbD_extractLsb', cmdWord_getLsbD]
  simp [hi, show ¬ 25 + i < 8 by omega, show ¬ 25 + i < 16 by omega, show ¬ 25 + i < 22 by omega,
    show ¬ 25 + i < 25 by omega, show 25 + i < 28 by omega]

@[simp] theorem cmdFld_cmdWord : cmdFld (cmdWord op reg fld byte val) = fld := by
  apply BitVec.eq_of_getLsbD_eq
  intro i hi
  simp only [cmdFld, BitVec.getLsbD_extractLsb', cmdWord_getLsbD]
  simp [hi, show ¬ 22 + i < 8 by omega, show ¬ 22 + i < 16 by omega, show 22 + i < 25 by omega]

@[simp] theorem cmdRsv_cmdWord : cmdRsv (cmdWord op reg fld byte val) = 0 := by
  apply BitVec.eq_of_getLsbD_eq
  intro i hi
  simp only [cmdRsv, BitVec.getLsbD_extractLsb', cmdWord_getLsbD]
  simp [show ¬ 16 + i < 8 by omega, show ¬ 16 + i < 16 by omega, show 16 + i < 22 by omega]

@[simp] theorem cmdByte_cmdWord : cmdByte (cmdWord op reg fld byte val) = byte := by
  apply BitVec.eq_of_getLsbD_eq
  intro i hi
  simp only [cmdByte, BitVec.getLsbD_extractLsb', cmdWord_getLsbD]
  simp [hi, show 8 + i < 16 by omega]

@[simp] theorem cmdVal_cmdWord : cmdVal (cmdWord op reg fld byte val) = val := by
  apply BitVec.eq_of_getLsbD_eq
  intro i hi
  simp only [cmdVal, BitVec.getLsbD_extractLsb', cmdWord_getLsbD]
  simp [hi]

end

/-- A word whose RSV is 0 is put together from its fields. -/
theorem cmdWord_fields {op : Opcode} {cmd : BitVec 32} (ho : cmdOp cmd = op.code) (hr : cmdRsv cmd = 0) :
    cmdWord op (cmdReg cmd) (cmdFld cmd) (cmdByte cmd) (cmdVal cmd) = cmd := by
  apply BitVec.eq_of_getLsbD_eq
  intro i hi
  rw [cmdWord_getLsbD, ← ho]
  by_cases h1 : i < 8
  · simp [h1, cmdVal]
  · by_cases h2 : i < 16
    · simp [h1, h2, cmdByte, show i - 8 < 8 by omega, show 8 + (i - 8) = i by omega]
    · by_cases h3 : i < 22
      · have h := congrArg (fun x => BitVec.getLsbD x (i - 16)) hr
        simp only [cmdRsv, BitVec.getLsbD_extractLsb', show i - 16 < 6 by omega, show 16 + (i - 16) = i by omega] at h
        simp [h1, h2, h3]
        simpa using h.symm
      · by_cases h4 : i < 25
        · simp [h1, h2, h3, h4, cmdFld, show i - 22 < 3 by omega,
            show 22 + (i - 22) = i by omega]
        · by_cases h5 : i < 28
          · simp [h1, h2, h3, h4, h5, cmdReg, show i - 25 < 3 by omega,
              show 25 + (i - 25) = i by omega]
          · simp [h1, h2, h3, h4, h5, cmdOp, show i - 28 < 4 by omega,
              show 28 + (i - 28) = i by omega]

/-! ### The fields as numbers -/

section
variable (cmd : BitVec 32)

theorem cmdOp_toNat : (cmdOp cmd).toNat = Machine.cmdNum cmd 28 4 := by
  simp [cmdOp, Machine.cmdNum, BitVec.extractLsb'_toNat, Nat.shiftRight_eq_div_pow]

theorem cmdReg_toNat : (cmdReg cmd).toNat = Machine.cmdNum cmd 25 3 := by
  simp [cmdReg, Machine.cmdNum, BitVec.extractLsb'_toNat, Nat.shiftRight_eq_div_pow]

theorem cmdFld_toNat : (cmdFld cmd).toNat = Machine.cmdNum cmd 22 3 := by
  simp [cmdFld, Machine.cmdNum, BitVec.extractLsb'_toNat, Nat.shiftRight_eq_div_pow]

theorem cmdRsv_toNat : (cmdRsv cmd).toNat = Machine.cmdNum cmd 16 6 := by
  simp [cmdRsv, Machine.cmdNum, BitVec.extractLsb'_toNat, Nat.shiftRight_eq_div_pow]

theorem cmdByte_toNat : (cmdByte cmd).toNat = Machine.cmdNum cmd 8 8 := by
  simp [cmdByte, Machine.cmdNum, BitVec.extractLsb'_toNat, Nat.shiftRight_eq_div_pow]

theorem cmdVal_toNat : (cmdVal cmd).toNat = Machine.cmdNum cmd 0 8 := by
  simp [cmdVal, Machine.cmdNum, BitVec.extractLsb'_toNat]

end

/-! ### The rows of the opcode table -/

/-- The operation leaves BYTE unused (R67). -/
def Opcode.byteUnused : Opcode → Bool
  | .fieldEncode | .fieldDecode => false
  | _ => true

/-- The operation leaves VAL unused (R67). -/
def Opcode.valUnused : Opcode → Bool
  | .setField | .fieldEncode => false
  | _ => true

/-- The operation leaves REG and FLD unused (R67). -/
def Opcode.pairUnused : Opcode → Bool
  | .setField | .getField | .fieldEncode | .fieldDecode => false
  | _ => true

/-- What a row's mask covers: OP and RSV always, and the fields the operation does not use (R67, R71). -/
theorem maskWord_getLsbD (op : Opcode) (i : Nat) (hi : i < 32) :
    op.maskWord.getLsbD i =
      if i < 8 then op.valUnused
      else if i < 16 then op.byteUnused
      else if i < 22 then true
      else if i < 28 then op.pairUnused
      else true := by
  revert i
  cases op <;> decide

theorem matchWord_getLsbD (op : Opcode) (i : Nat) (hi : i < 32) :
    op.matchWord.getLsbD i = if i < 28 then false else op.code.getLsbD (i - 28) := by
  revert i
  cases op <;> decide

/-- A word matches a row exactly if OP is the row's, RSV is 0, and every field the operation does not use is 0. -/
theorem matches_row_iff (op : Opcode) (cmd : BitVec 32) :
    cmd &&& op.maskWord = op.matchWord ↔
      cmdOp cmd = op.code ∧ cmdRsv cmd = 0 ∧ (op.byteUnused = true → cmdByte cmd = 0) ∧
        (op.valUnused = true → cmdVal cmd = 0) ∧
        (op.pairUnused = true → cmdReg cmd = 0 ∧ cmdFld cmd = 0) := by
  have bit (i : Nat) (hi : i < 32) : (cmd &&& op.maskWord).getLsbD i =
      (cmd.getLsbD i && (if i < 8 then op.valUnused else if i < 16 then op.byteUnused else if i < 22 then true
        else if i < 28 then op.pairUnused else true)) := by
    rw [BitVec.getLsbD_and, maskWord_getLsbD op i hi]
  constructor
  · intro h
    have hb (i : Nat) (hi : i < 32) := (bit i hi).symm.trans ((congrArg (fun x => BitVec.getLsbD x i) h).trans
      (matchWord_getLsbD op i hi))
    refine ⟨?_, ?_, ?_, ?_, ?_⟩
    · apply BitVec.eq_of_getLsbD_eq
      intro i hi
      have := hb (28 + i) (by omega)
      simpa [cmdOp, BitVec.getLsbD_extractLsb', hi, show ¬ 28 + i < 8 by omega, show ¬ 28 + i < 16 by omega,
        show ¬ 28 + i < 22 by omega, show ¬ 28 + i < 28 by omega] using this
    · apply BitVec.eq_of_getLsbD_eq
      intro i hi
      have := hb (16 + i) (by omega)
      simpa [cmdRsv, BitVec.getLsbD_extractLsb', hi, show ¬ 16 + i < 8 by omega, show ¬ 16 + i < 16 by omega,
        show 16 + i < 22 by omega, show 16 + i < 28 by omega] using this
    · intro hu
      apply BitVec.eq_of_getLsbD_eq
      intro i hi
      have := hb (8 + i) (by omega)
      simpa [cmdByte, BitVec.getLsbD_extractLsb', hi, hu, show ¬ 8 + i < 8 by omega, show 8 + i < 16 by omega,
        show 8 + i < 28 by omega] using this
    · intro hu
      apply BitVec.eq_of_getLsbD_eq
      intro i hi
      have := hb i (by omega)
      simpa [cmdVal, BitVec.getLsbD_extractLsb', hi, hu, show i < 28 by omega] using this
    · intro hu
      constructor
      · apply BitVec.eq_of_getLsbD_eq
        intro i hi
        have := hb (25 + i) (by omega)
        simpa [cmdReg, BitVec.getLsbD_extractLsb', hi, hu, show ¬ 25 + i < 8 by omega, show ¬ 25 + i < 16 by omega,
          show ¬ 25 + i < 22 by omega, show 25 + i < 28 by omega] using this
      · apply BitVec.eq_of_getLsbD_eq
        intro i hi
        have := hb (22 + i) (by omega)
        simpa [cmdFld, BitVec.getLsbD_extractLsb', hi, hu, show ¬ 22 + i < 8 by omega, show ¬ 22 + i < 16 by omega,
          show 22 + i < 28 by omega] using this
  · rintro ⟨ho, hr, hb, hv, hp⟩
    rw [← cmdWord_fields ho hr]
    apply BitVec.eq_of_getLsbD_eq
    intro i hi
    rw [BitVec.getLsbD_and, maskWord_getLsbD op i hi, matchWord_getLsbD op i hi, cmdWord_getLsbD]
    by_cases h1 : i < 8
    · rw [if_pos h1, if_pos h1, if_pos (by omega)]
      cases hu : op.valUnused
      · exact Bool.and_false _
      · simp [hv hu]
    rw [if_neg h1, if_neg h1]
    by_cases h2 : i < 16
    · rw [if_pos h2, if_pos h2, if_pos (by omega)]
      cases hu : op.byteUnused
      · exact Bool.and_false _
      · simp [hb hu]
    rw [if_neg h2, if_neg h2]
    by_cases h3 : i < 22
    · rw [if_pos h3, if_pos h3, if_pos (by omega), Bool.false_and]
    rw [if_neg h3, if_neg h3]
    by_cases h4 : i < 28
    · rw [if_pos h4, if_pos h4, if_pos h4]
      cases hu : op.pairUnused
      · exact Bool.and_false _
      · simp [hp hu]
    · rw [if_neg h4, if_neg h4, if_neg h4, if_neg (by omega), Bool.and_true]

/-! ### The pairs and the opcodes -/

@[simp] theorem Field.ofCode_code (f : Field) : Field.ofCode f.reg.code f.index = some f := by
  cases f <;> decide

theorem Field.ofCode_eq {reg fld : BitVec 3} {f : Field} (h : Field.ofCode reg fld = some f) :
    f.reg.code = reg ∧ f.index = fld := by
  have := List.find?_some h
  simpa using this

@[simp] theorem Opcode.ofCode_code (op : Opcode) : Opcode.ofCode op.code = some op := by
  cases op <;> rfl

theorem Opcode.ofCode_eq {c : BitVec 4} {op : Opcode} (h : Opcode.ofCode c = some op) : op.code = c := by
  revert c
  cases op <;> decide

theorem Opcode.code_injective {a b : Opcode} (h : a.code = b.code) : a = b :=
  Option.some.inj (by rw [← Opcode.ofCode_code a, h, Opcode.ofCode_code])

/-! ### The lanes of `raw_in` -/

theorem rawInX_append (x y z : Raw) : rawInX (x ++ y ++ z) = x := by
  apply BitVec.eq_of_getLsbD_eq
  intro i hi
  simp only [rawInX, BitVec.getLsbD_extractLsb', BitVec.getLsbD_append]
  simp [hi, show ¬ 36 + i < 18 by omega, show ¬ 36 + i - 18 < 18 by omega, show 36 + i - 18 - 18 = i by omega]

theorem rawInY_append (x y z : Raw) : rawInY (x ++ y ++ z) = y := by
  apply BitVec.eq_of_getLsbD_eq
  intro i hi
  simp only [rawInY, BitVec.getLsbD_extractLsb', BitVec.getLsbD_append]
  simp [hi]

theorem rawInZ_append (x y z : Raw) : rawInZ (x ++ y ++ z) = z := by
  apply BitVec.eq_of_getLsbD_eq
  intro i hi
  simp only [rawInZ, BitVec.getLsbD_extractLsb', BitVec.getLsbD_append]
  simp [hi]

theorem rawIn_lanes (r : BitVec 54) : rawInX r ++ rawInY r ++ rawInZ r = r := by
  apply BitVec.eq_of_getLsbD_eq
  intro i hi
  simp only [rawInX, rawInY, rawInZ, BitVec.getLsbD_extractLsb', BitVec.getLsbD_append]
  by_cases h1 : i < 18
  · simp [h1]
  · by_cases h2 : i - 18 < 18
    · simp [h1, h2, show 18 + (i - 18) = i by omega]
    · simp [h1, h2, show i - 18 - 18 < 18 by omega, show 36 + (i - 18 - 18) = i by omega]

end Sys2Proof
end

