-- ==== Sys2Proof/Laws/State.lean ====
section
/-! SUPPORT. One lemma per field of State per update, so that no proof unfolds a record update. -/
namespace Sys2Proof.Machine

/-! ### `State.setShadow` -/

@[simp] theorem State.setShadow_shadow (s : State) (c : Ctrl) (v : Byte) : (s.setShadow c v).shadow = s.shadow.set c v := rfl

@[simp] theorem State.setShadow_params (s : State) (c : Ctrl) (v : Byte) : (s.setShadow c v).params = s.params := rfl

@[simp] theorem State.setShadow_requests (s : State) (c : Ctrl) (v : Byte) : (s.setShadow c v).requests = s.requests := rfl

@[simp] theorem State.setShadow_responses (s : State) (c : Ctrl) (v : Byte) : (s.setShadow c v).responses = s.responses := rfl

@[simp] theorem State.setShadow_trace (s : State) (c : Ctrl) (v : Byte) : (s.setShadow c v).trace = s.trace := rfl

@[simp] theorem State.setShadow_answers (s : State) (c : Ctrl) (v : Byte) : (s.setShadow c v).answers = s.answers := rfl

@[simp] theorem State.setShadow_draws (s : State) (c : Ctrl) (v : Byte) : (s.setShadow c v).draws = s.draws := rfl

/-! ### `State.clearShadow` -/

@[simp] theorem State.clearShadow_shadow (s : State) : (s.clearShadow).shadow = Shadow.zero := rfl

@[simp] theorem State.clearShadow_params (s : State) : (s.clearShadow).params = s.params := rfl

@[simp] theorem State.clearShadow_requests (s : State) : (s.clearShadow).requests = s.requests := rfl

@[simp] theorem State.clearShadow_responses (s : State) : (s.clearShadow).responses = s.responses := rfl

@[simp] theorem State.clearShadow_trace (s : State) : (s.clearShadow).trace = s.trace := rfl

@[simp] theorem State.clearShadow_answers (s : State) : (s.clearShadow).answers = s.answers := rfl

@[simp] theorem State.clearShadow_draws (s : State) : (s.clearShadow).draws = s.draws := rfl

/-! ### `State.respond` -/

@[simp] theorem State.respond_shadow (s : State) (r : Response) : (s.respond r).shadow = s.shadow := rfl

@[simp] theorem State.respond_params (s : State) (r : Response) : (s.respond r).params = s.params := rfl

@[simp] theorem State.respond_requests (s : State) (r : Response) : (s.respond r).requests = s.requests := rfl

@[simp] theorem State.respond_responses (s : State) (r : Response) : (s.respond r).responses = s.responses ++ [r] := rfl

@[simp] theorem State.respond_trace (s : State) (r : Response) : (s.respond r).trace = s.trace := rfl

@[simp] theorem State.respond_answers (s : State) (r : Response) : (s.respond r).answers = s.answers := rfl

@[simp] theorem State.respond_draws (s : State) (r : Response) : (s.respond r).draws = s.draws := rfl

/-! ### `State.raise` -/

@[simp] theorem State.raise_shadow (s : State) (e : Raised) : (s.raise e).shadow = s.shadow := rfl

@[simp] theorem State.raise_params (s : State) (e : Raised) : (s.raise e).params = s.params := rfl

@[simp] theorem State.raise_requests (s : State) (e : Raised) : (s.raise e).requests = s.requests := rfl

@[simp] theorem State.raise_responses (s : State) (e : Raised) : (s.raise e).responses = s.responses ++ [e.response] := rfl

@[simp] theorem State.raise_trace (s : State) (e : Raised) : (s.raise e).trace = s.trace := rfl

@[simp] theorem State.raise_answers (s : State) (e : Raised) : (s.raise e).answers = s.answers := rfl

@[simp] theorem State.raise_draws (s : State) (e : Raised) : (s.raise e).draws = s.draws := rfl

/-! ### `State.record` -/

@[simp] theorem State.record_shadow (s : State) (e : PortEvent) : (s.record e).shadow = s.shadow := rfl

@[simp] theorem State.record_params (s : State) (e : PortEvent) : (s.record e).params = s.params := rfl

@[simp] theorem State.record_requests (s : State) (e : PortEvent) : (s.record e).requests = s.requests := rfl

@[simp] theorem State.record_responses (s : State) (e : PortEvent) : (s.record e).responses = s.responses := rfl

@[simp] theorem State.record_trace (s : State) (e : PortEvent) : (s.record e).trace = s.trace ++ [e] := rfl

@[simp] theorem State.record_answers (s : State) (e : PortEvent) : (s.record e).answers = s.answers := rfl

@[simp] theorem State.record_draws (s : State) (e : PortEvent) : (s.record e).draws = s.draws := rfl

/-! ### `State.delay` -/

@[simp] theorem State.delay_shadow (s : State) (ms : Nat) : (s.delay ms).shadow = s.shadow := rfl

@[simp] theorem State.delay_params (s : State) (ms : Nat) : (s.delay ms).params = s.params := rfl

@[simp] theorem State.delay_requests (s : State) (ms : Nat) : (s.delay ms).requests = s.requests := rfl

@[simp] theorem State.delay_responses (s : State) (ms : Nat) : (s.delay ms).responses = s.responses := rfl

@[simp] theorem State.delay_trace (s : State) (ms : Nat) : (s.delay ms).trace = s.trace ++ [.delay ms] := rfl

@[simp] theorem State.delay_answers (s : State) (ms : Nat) : (s.delay ms).answers = s.answers := rfl

@[simp] theorem State.delay_draws (s : State) (ms : Nat) : (s.delay ms).draws = s.draws := rfl

/-! ### `State.present` -/

@[simp] theorem State.presentNext_shadow (s : State) (q : Request) : (s.presentNext q).shadow = s.shadow := rfl

@[simp] theorem State.presentNext_params (s : State) (q : Request) : (s.presentNext q).params = s.params := rfl

@[simp] theorem State.presentNext_requests (s : State) (q : Request) : (s.presentNext q).requests = q :: s.requests := rfl

@[simp] theorem State.presentNext_responses (s : State) (q : Request) : (s.presentNext q).responses = s.responses := rfl

@[simp] theorem State.presentNext_trace (s : State) (q : Request) : (s.presentNext q).trace = s.trace := rfl

@[simp] theorem State.presentNext_answers (s : State) (q : Request) : (s.presentNext q).answers = s.answers := rfl

@[simp] theorem State.presentNext_draws (s : State) (q : Request) : (s.presentNext q).draws = s.draws := rfl

@[simp] theorem State.present_shadow (s : State) (q : Request) : (s.present q).shadow = s.shadow := rfl

@[simp] theorem State.present_params (s : State) (q : Request) : (s.present q).params = s.params := rfl

@[simp] theorem State.present_requests (s : State) (q : Request) : (s.present q).requests = s.requests ++ [q] := rfl

@[simp] theorem State.present_responses (s : State) (q : Request) : (s.present q).responses = s.responses := rfl

@[simp] theorem State.present_trace (s : State) (q : Request) : (s.present q).trace = s.trace := rfl

@[simp] theorem State.present_answers (s : State) (q : Request) : (s.present q).answers = s.answers := rfl

@[simp] theorem State.present_draws (s : State) (q : Request) : (s.present q).draws = s.draws := rfl

/-! ### `State.withFetchWord` -/

@[simp] theorem State.withFetchWord_shadow (s : State) (nbits w : Nat) : (s.withFetchWord nbits w).shadow = s.shadow := rfl

@[simp] theorem State.withFetchWord_params (s : State) (nbits w : Nat) : (s.withFetchWord nbits w).params = s.params := rfl

@[simp] theorem State.withFetchWord_requests (s : State) (nbits w : Nat) : (s.withFetchWord nbits w).requests = tableRequest nbits w :: s.requests := rfl

@[simp] theorem State.withFetchWord_responses (s : State) (nbits w : Nat) : (s.withFetchWord nbits w).responses = s.responses := rfl

@[simp] theorem State.withFetchWord_trace (s : State) (nbits w : Nat) : (s.withFetchWord nbits w).trace = s.trace := rfl

@[simp] theorem State.withFetchWord_answers (s : State) (nbits w : Nat) : (s.withFetchWord nbits w).answers = s.answers := rfl

@[simp] theorem State.withFetchWord_draws (s : State) (nbits w : Nat) : (s.withFetchWord nbits w).draws = s.draws := rfl

/-! ### `State.consume`: only the answers and the draw counter move -/

@[simp] theorem State.consume_shadow (s : State) : s.consume.shadow = s.shadow := by
  unfold State.consume; split <;> rfl

@[simp] theorem State.consume_params (s : State) : s.consume.params = s.params := by
  unfold State.consume; split <;> rfl

@[simp] theorem State.consume_requests (s : State) : s.consume.requests = s.requests := by
  unfold State.consume; split <;> rfl

@[simp] theorem State.consume_responses (s : State) : s.consume.responses = s.responses := by
  unfold State.consume; split <;> rfl

@[simp] theorem State.consume_trace (s : State) : s.consume.trace = s.trace := by
  unfold State.consume; split <;> rfl

/-! ### `State.memRead` -/

theorem State.memRead_eq (s : State) (addr : Byte) (n : Nat) (h : n ≤ 7) :
    s.memRead addr n h = (readReply s.answer n h, s.consume.record (.read addr n (readReply s.answer n h).shown)) := rfl

@[simp] theorem State.memRead_fst (s : State) (addr : Byte) (n : Nat) (h : n ≤ 7) : (s.memRead addr n h).1 = readReply s.answer n h := rfl

@[simp] theorem State.memRead_snd (s : State) (addr : Byte) (n : Nat) (h : n ≤ 7) :
    (s.memRead addr n h).2 = s.consume.record (.read addr n (readReply s.answer n h).shown) := rfl

/-! ### `State.memWrite` -/

theorem State.memWrite_eq (s : State) (addr : Byte) (data : List Byte) :
    s.memWrite addr data = (writeReply s.answer, s.consume.record (.write addr data (writeReply s.answer))) := rfl

@[simp] theorem State.memWrite_fst (s : State) (addr : Byte) (data : List Byte) : (s.memWrite addr data).1 = writeReply s.answer := rfl

@[simp] theorem State.memWrite_snd (s : State) (addr : Byte) (data : List Byte) :
    (s.memWrite addr data).2 = s.consume.record (.write addr data (writeReply s.answer)) := rfl

/-! ### `State.commitField` -/

@[simp] theorem State.commitField_params (s : State) (c : Ctrl) (f : Field) (new : Byte) : (s.commitField c f new).params = s.params := by
  unfold State.commitField; split <;> rfl

@[simp] theorem State.commitField_requests (s : State) (c : Ctrl) (f : Field) (new : Byte) : (s.commitField c f new).requests = s.requests := by
  unfold State.commitField; split <;> rfl

@[simp] theorem State.commitField_responses (s : State) (c : Ctrl) (f : Field) (new : Byte) : (s.commitField c f new).responses = s.responses := by
  unfold State.commitField; split <;> rfl

@[simp] theorem State.commitField_trace (s : State) (c : Ctrl) (f : Field) (new : Byte) : (s.commitField c f new).trace = s.trace := by
  unfold State.commitField; split <;> rfl

@[simp] theorem State.commitField_answers (s : State) (c : Ctrl) (f : Field) (new : Byte) : (s.commitField c f new).answers = s.answers := by
  unfold State.commitField; split <;> rfl

@[simp] theorem State.commitField_draws (s : State) (c : Ctrl) (f : Field) (new : Byte) : (s.commitField c f new).draws = s.draws := by
  unfold State.commitField; split <;> rfl

/-! ### `State.settle` -/

@[simp] theorem State.settle_params (s : State) : (s.settle).params = s.params := by
  unfold State.settle; split <;> rfl

@[simp] theorem State.settle_requests (s : State) : (s.settle).requests = s.requests := by
  unfold State.settle; split <;> rfl

@[simp] theorem State.settle_responses (s : State) : (s.settle).responses = s.responses := by
  unfold State.settle; split <;> rfl

@[simp] theorem State.settle_answers (s : State) : (s.settle).answers = s.answers := by
  unfold State.settle; split <;> rfl

@[simp] theorem State.settle_draws (s : State) : (s.settle).draws = s.draws := by
  unfold State.settle; split <;> rfl

/-! ### `State.respondDecoded` -/

@[simp] theorem State.respondDecoded_shadow (s : State) (f : Field) (v : Byte) : (s.respondDecoded f v).shadow = s.shadow := by
  unfold State.respondDecoded; split <;> rfl

@[simp] theorem State.respondDecoded_params (s : State) (f : Field) (v : Byte) : (s.respondDecoded f v).params = s.params := by
  unfold State.respondDecoded; split <;> rfl

@[simp] theorem State.respondDecoded_requests (s : State) (f : Field) (v : Byte) : (s.respondDecoded f v).requests = s.requests := by
  unfold State.respondDecoded; split <;> rfl

@[simp] theorem State.respondDecoded_trace (s : State) (f : Field) (v : Byte) : (s.respondDecoded f v).trace = s.trace := by
  unfold State.respondDecoded; split <;> rfl

@[simp] theorem State.respondDecoded_answers (s : State) (f : Field) (v : Byte) : (s.respondDecoded f v).answers = s.answers := by
  unfold State.respondDecoded; split <;> rfl

@[simp] theorem State.respondDecoded_draws (s : State) (f : Field) (v : Byte) : (s.respondDecoded f v).draws = s.draws := by
  unfold State.respondDecoded; split <;> rfl

/-! ### The fields of the reset state -/

@[simp] theorem State.resetWith_shadow (p : Params) : (State.resetWith p).shadow = Shadow.zero := rfl
@[simp] theorem State.resetWith_params (p : Params) : (State.resetWith p).params = p := rfl
@[simp] theorem State.resetWith_requests (p : Params) : (State.resetWith p).requests = [] := rfl
@[simp] theorem State.resetWith_responses (p : Params) : (State.resetWith p).responses = [] := rfl
@[simp] theorem State.resetWith_trace (p : Params) : (State.resetWith p).trace = [] := rfl
@[simp] theorem State.resetWith_answers (p : Params) : (State.resetWith p).answers = [] := rfl

/-! ### Updates that commute -/

theorem State.record_consume (s : State) (e : PortEvent) : s.consume.record e = (s.record e).consume := by
  cases h : s.answers <;> simp [State.record, State.consume, h]

/-- Every register of `shadow` after `shadow[c] <- v`. -/
theorem Shadow.get_set (sh : Shadow) (c d : Ctrl) (v : Byte) :
    (sh.set c v).get d = if d = c then v else sh.get d := by
  cases c <;> cases d <;> rfl

@[simp] theorem Shadow.get_set_self (sh : Shadow) (c : Ctrl) (v : Byte) : (sh.set c v).get c = v := by
  cases c <;> rfl

theorem Shadow.get_set_other (sh : Shadow) {c d : Ctrl} (v : Byte) (h : d ≠ c) :
    (sh.set c v).get d = sh.get d := by
  rw [Shadow.get_set, if_neg h]

@[simp] theorem Shadow.set_set (sh : Shadow) (c : Ctrl) (v w : Byte) : (sh.set c v).set c w = sh.set c w := by
  cases c <;> rfl

@[simp] theorem Shadow.set_get (sh : Shadow) (c : Ctrl) : sh.set c (sh.get c) = sh := by
  cases c <;> rfl

@[simp] theorem Shadow.get_zero (c : Ctrl) : Shadow.zero.get c = 0 := by
  cases c <;> rfl

/-- Two shadows that agree on every register are equal. -/
theorem Shadow.ext_get {a b : Shadow} (h : ∀ c, a.get c = b.get c) : a = b := by
  cases a; cases b
  have h0 := h .ctrl0; have h1 := h .ctrl1; have h2 := h .ctrl2; have h3 := h .ctrl3
  simp only [Shadow.get] at h0 h1 h2 h3
  simp [h0, h1, h2, h3]

end Sys2Proof.Machine
end

