-- ==== Sys2Proof/Laws/Exec.lean ====
section
/-! SUPPORT. What each shared operation and each meaning can do, said once. -/
namespace Sys2Proof.Machine

/-! ### The port -/

theorem State.memWrite_ok {s : State} {data : Vector Byte 7} (h : s.answer = .ok data) (addr : Byte) (bs : List Byte) :
    s.memWrite addr bs = (.ok [], s.consume.record (.write addr bs (.ok []))) := by
  simp [State.memWrite_eq, writeReply, h]

theorem State.memWrite_err {s : State} {e : Nat} (h : s.answer = .err e) (addr : Byte) (bs : List Byte) :
    s.memWrite addr bs = (.err e, s.consume.record (.write addr bs (.err e))) := by
  simp [State.memWrite_eq, writeReply, h]

theorem State.memRead_ok {s : State} {data : Vector Byte 7} (h : s.answer = .ok data) (addr : Byte) (n : Nat)
    (hn : n ≤ 7) :
    s.memRead addr n hn =
      (.ok (firstBytes data n hn), s.consume.record (.read addr n (.ok (firstBytes data n hn).toList))) := by
  simp [State.memRead_eq, readReply, ReadReply.shown, h]

theorem State.memRead_err {s : State} {e : Nat} (h : s.answer = .err e) (addr : Byte) (n : Nat) (hn : n ≤ 7) :
    s.memRead addr n hn = (.err e, s.consume.record (.read addr n (.err e))) := by
  simp [State.memRead_eq, readReply, ReadReply.shown, h]

/-- An error value on the port's wires has the port's width (R104). -/
theorem State.answer_err_lt {s : State} {e : Nat} (h : s.answer = .err e) : e < 2 ^ s.params.busErrWidth := by
  have key : ∀ a, PortAnswer.onWire s.params.busErrWidth a = .err e → e < 2 ^ s.params.busErrWidth := by
    intro a ha
    cases a with
    | ok d => simp [PortAnswer.onWire] at ha
    | err c =>
      simp only [PortAnswer.onWire, PortAnswer.err.injEq] at ha
      exact ha ▸ Nat.mod_lt _ (Nat.two_pow_pos _)
  unfold State.answer at h
  split at h <;> exact key _ h

@[simp] theorem firstBytes_seven (data : Vector Byte 7) (h : 7 ≤ 7) : firstBytes data 7 h = data := by
  ext i hi; simp [firstBytes]

@[simp] theorem firstBytes_one (data : Vector Byte 7) (h : 1 ≤ 7) : firstBytes data 1 h = #v[data[0]] := by
  ext i hi
  have : i = 0 := by omega
  subst this
  simp [firstBytes]

/-! ### Answers of the shadow after the updates of SET_FIELD -/

@[simp] theorem State.commitField_shadow (s : State) (c : Ctrl) (f : Field) (new : Byte) :
    (s.commitField c f new).shadow =
      s.shadow.set c (if f.info.selfClearing then new &&& ~~~(fieldBits f) else new) := by
  unfold State.commitField; split <;> simp

@[simp] theorem State.settle_shadow (s : State) :
    s.settle.shadow = if s.params.swResetClearsShadow then Shadow.zero else s.shadow := by
  unfold State.settle; split <;> simp

@[simp] theorem State.settle_trace (s : State) :
    s.settle.trace = s.trace ++ [.delay s.params.swResetDelayMs] := by
  unfold State.settle; split <;> simp

theorem isSwReset_iff (f : Field) (v : Byte) : isSwReset f v = true ↔ f = .swReset ∧ v = 1 := by
  simp [isSwReset]

/-- A SET_FIELD is a software reset when it names `sw_reset` with an odd VAL (R68, R78). -/
theorem isSwReset_fieldValue (f : Field) (val : Byte) :
    isSwReset f (fieldValue f val) = asksSwReset (.setField f val) := by
  cases f <;> first | rfl | (revert val; decide)

/-! ### Every instruction answers a next state -/

/-- The state an instruction leaves (R101: every request ends with a response). -/
theorem exec_next (i : Instr) (s : State) : ∃ t, exec i s = .next t := by
  cases i <;> exact ⟨_, rfl⟩

/-- What one instruction can do to the machine: the cases of every meaning. -/
inductive Effect (s : State) : Instr → State → Prop where
  /-- A cause of R103 that is left after decoding. -/
  | invalid (i : Instr) (h : refusedFor s.params i = true) : Effect s i (s.raise .invalidArgument)
  /-- The one transaction failed (R104). -/
  | failedWrite (f : Field) (val : Byte) (c : Ctrl) (e : Nat) (hc : f.ctrl? = some c) (ha : s.answer = .err e) :
      Effect s (.setField f val)
        ((s.consume.record
          (.write c.address [encodeField f (s.shadow.get c) (fieldValue f val)] (.err e))).raise (.busError e))
  | failedRead (i : Instr) (addr : Byte) (n e : Nat) (ha : s.answer = .err e)
      (hi : i = .statusGet ∧ addr = 0x08 ∧ n = 1 ∨ i = .deviceIdGet ∧ addr = 0x2F ∧ n = 1 ∨
        i = .readRaw ∧ addr = 0x00 ∧ n = 7) :
      Effect s i ((s.consume.record (.read addr n (.err e))).raise (.busError e))
  /-- SET_FIELD wrote (R79), without a software reset. -/
  | wrote (f : Field) (val : Byte) (c : Ctrl) (d : Vector Byte 7) (hc : f.ctrl? = some c) (ha : s.answer = .ok d)
      (hn : isSwReset f (fieldValue f val) = false) :
      Effect s (.setField f val)
        (((s.consume.record
          (.write c.address [encodeField f (s.shadow.get c) (fieldValue f val)] (.ok []))).commitField c f
            (encodeField f (s.shadow.get c) (fieldValue f val))).respond
              { byte := encodeField f (s.shadow.get c) (fieldValue f val) })
  /-- SET_FIELD wrote a software reset (R78). -/
  | swReset (val : Byte) (d : Vector Byte 7) (ha : s.answer = .ok d) (hv : fieldValue .swReset val = 1) :
      Effect s (.setField .swReset val)
        ((((s.consume.record
          (.write 0x0A [encodeField .swReset s.shadow.ctrl1 1] (.ok []))).commitField .ctrl1 .swReset
            (encodeField .swReset s.shadow.ctrl1 1)).settle).respond
              { byte := encodeField .swReset s.shadow.ctrl1 1 })
  /-- A field was decoded from the shadow or from the operand (R80, R90). -/
  | got (f : Field) (c : Ctrl) (hc : f.ctrl? = some c) :
      Effect s (.getField f) (s.respondDecoded f (decodeField f (s.shadow.get c)))
  | decoded (f : Field) (b : Byte) : Effect s (.fieldDecode f b) (s.respondDecoded f (decodeField f b))
  /-- A read succeeded, or a pure operation answered. -/
  | readOk (i : Instr) (addr : Byte) (n : Nat) (bs : List Byte) (r : Response) (hr : r.status = .ok ∧ r.busErr = 0)
      (hl : bs.length = n) (ha : ∃ d, s.answer = .ok d)
      (hi : i = .statusGet ∧ addr = 0x08 ∧ n = 1 ∨ i = .deviceIdGet ∧ addr = 0x2F ∧ n = 1 ∨
        i = .readRaw ∧ addr = 0x00 ∧ n = 7) :
      Effect s i ((s.consume.record (.read addr n (.ok bs))).respond r)
  | encoded (f : Field) (b val : Byte) :
      Effect s (.fieldEncode f b val) (s.respond { byte := encodeField f b (fieldValue f val) })
  | converted (rx ry rz : Raw) (r : Response) (hr : r.status = .ok ∧ r.busErr = 0) :
      Effect s (.toPhysical rx ry rz) (s.respond r)

/-- Every instruction has one of these effects. -/
theorem exec_effect {i : Instr} {s t : State} (h : exec i s = .next t) : Effect s i t := by
  cases i with
  | setField f val =>
    simp only [exec, execSetField, Host.Outcome.next.injEq] at h
    subst h
    split
    · rename_i hc
      exact .invalid _ (by simp [refusedFor, Instr.wellFormed, Field.shadowed, hc])
    · rename_i c hc
      split
      · rename_i hp
        exact .invalid _ (by simp_all [refusedFor, usesPort])
      · split
        · rename_i hd
          rw [isSwReset_fieldValue] at hd
          exact .invalid _ (by simp [refusedFor, hd])
        · unfold State.writeField
          cases ha : s.answer with
          | err e =>
            simp only [State.memWrite_err ha]
            exact .failedWrite f val c e hc ha
          | ok d =>
            simp only [State.memWrite_ok ha]
            split
            · rename_i hsw
              obtain ⟨rfl, hv⟩ := (isSwReset_iff _ _).mp hsw
              have : c = .ctrl1 := by simpa [Field.ctrl?, Field.reg] using hc.symm
              subst this
              rw [hv]
              exact .swReset val d ha hv
            · rename_i hsw
              exact .wrote f val c d hc ha (by simpa using hsw)
  | getField f =>
    simp only [exec, execGetField, Host.Outcome.next.injEq] at h
    subst h
    split
    · rename_i hc
      exact .invalid _ (by simp [refusedFor, Instr.wellFormed, Field.shadowed, hc])
    · rename_i c hc
      exact .got f c hc
  | statusGet =>
    simp only [exec, execStatusGet, Host.Outcome.next.injEq] at h
    subst h
    split
    · rename_i hp
      exact .invalid _ (by simpa [refusedFor, usesPort, Instr.wellFormed, asksSwReset] using hp)
    · cases ha : s.answer with
      | err e =>
        simp only [State.memRead_err ha]
        exact .failedRead _ _ _ e ha (by simp)
      | ok d =>
        simp only [State.memRead_ok ha]
        exact .readOk _ _ _ _ _ (by simp) (by simp) ⟨d, ha⟩ (by simp)
  | deviceIdGet =>
    simp only [exec, execDeviceIdGet, Host.Outcome.next.injEq] at h
    subst h
    split
    · rename_i hp
      exact .invalid _ (by simpa [refusedFor, usesPort, Instr.wellFormed, asksSwReset] using hp)
    · cases ha : s.answer with
      | err e =>
        simp only [State.memRead_err ha]
        exact .failedRead _ _ _ e ha (by simp)
      | ok d =>
        simp only [State.memRead_ok ha]
        exact .readOk _ _ _ _ _ (by simp) (by simp) ⟨d, ha⟩ (by simp)
  | fieldEncode f b val =>
    simp only [exec, execFieldEncode, Host.Outcome.next.injEq] at h
    subst h
    exact .encoded f b val
  | fieldDecode f b =>
    simp only [exec, execFieldDecode, Host.Outcome.next.injEq] at h
    subst h
    exact .decoded f b
  | readRaw =>
    simp only [exec, execReadRaw, Host.Outcome.next.injEq] at h
    subst h
    split
    · rename_i hp
      exact .invalid _ (by simpa [refusedFor, usesPort, Instr.wellFormed, asksSwReset] using hp)
    · cases ha : s.answer with
      | err e =>
        simp only [State.memRead_err ha]
        exact .failedRead _ _ _ e ha (by simp)
      | ok d =>
        simp only [State.memRead_ok ha]
        exact .readOk _ _ _ _ _ (by simp) (by simp) ⟨d, ha⟩ (by simp)
  | toPhysical rx ry rz =>
    simp only [exec, execToPhysical, Host.Outcome.next.injEq] at h
    subst h
    exact .converted rx ry rz _ (by simp)

/-- A decoded instruction that R66, R76 or R78 refuses answers InvalidArgument and does nothing else. -/
theorem exec_refused {i : Instr} {s : State} (h : refusedFor s.params i = true) :
    exec i s = .next (s.raise .invalidArgument) := by
  cases i with
  | setField f val =>
    simp only [exec, execSetField, isSwReset_fieldValue]
    cases hc : f.ctrl? with
    | none => rfl
    | some c =>
      cases hp : s.params.transportPresent <;>
        simp_all [refusedFor, Instr.wellFormed, Field.shadowed, usesPort]
  | getField f =>
    have hc : f.ctrl? = none := by
      simpa [refusedFor, Instr.wellFormed, Field.shadowed, usesPort, asksSwReset] using h
    simp [exec, execGetField, hc]
  | statusGet =>
    have hp : s.params.transportPresent = false := by
      simpa [refusedFor, Instr.wellFormed, usesPort, asksSwReset] using h
    simp [exec, execStatusGet, hp]
  | deviceIdGet =>
    have hp : s.params.transportPresent = false := by
      simpa [refusedFor, Instr.wellFormed, usesPort, asksSwReset] using h
    simp [exec, execDeviceIdGet, hp]
  | fieldEncode f b val => simp [refusedFor, Instr.wellFormed, usesPort, asksSwReset] at h
  | fieldDecode f b => simp [refusedFor, Instr.wellFormed, usesPort, asksSwReset] at h
  | readRaw =>
    have hp : s.params.transportPresent = false := by
      simpa [refusedFor, Instr.wellFormed, usesPort, asksSwReset] using h
    simp [exec, execReadRaw, hp]
  | toPhysical rx ry rz => simp [refusedFor, Instr.wellFormed, usesPort, asksSwReset] at h

/-! ### The equation of each meaning that uses the port -/

/-- SET_FIELD with a port that answers OK (R79). -/
theorem exec_setField_ok {s : State} {f : Field} {val : Byte} {c : Ctrl} {d : Vector Byte 7} (hc : f.ctrl? = some c)
    (hp : s.params.transportPresent = true) (ha : s.answer = .ok d)
    (hs : asksSwReset (.setField f val) = true → s.params.delayPresent = true) :
    exec (.setField f val) s = .next (
      let new := encodeField f (s.shadow.get c) (fieldValue f val)
      let s1 := (s.consume.record (.write c.address [new] (.ok []))).commitField c f new
      (if asksSwReset (.setField f val) then s1.settle else s1).respond { byte := new }) := by
  simp only [exec, execSetField, hc, hp, isSwReset_fieldValue]
  cases h : asksSwReset (.setField f val)
  · simp [State.writeField, State.memWrite_ok ha, isSwReset_fieldValue, h]
  · simp [State.writeField, State.memWrite_ok ha, isSwReset_fieldValue, h, hs h]

/-- SET_FIELD with a port that answers an error (R79, R85). -/
theorem exec_setField_err {s : State} {f : Field} {val : Byte} {c : Ctrl} {e : Nat} (hc : f.ctrl? = some c)
    (hp : s.params.transportPresent = true) (ha : s.answer = .err e)
    (hs : asksSwReset (.setField f val) = true → s.params.delayPresent = true) :
    exec (.setField f val) s = .next
      ((s.consume.record (.write c.address [encodeField f (s.shadow.get c) (fieldValue f val)] (.err e))).raise
        (.busError e)) := by
  simp only [exec, execSetField, hc, hp, isSwReset_fieldValue]
  cases h : asksSwReset (.setField f val)
  · simp [State.writeField, State.memWrite_err ha]
  · simp [State.writeField, State.memWrite_err ha, hs h]

theorem exec_statusGet_ok {s : State} {d : Vector Byte 7} (hp : s.params.transportPresent = true)
    (ha : s.answer = .ok d) :
    exec .statusGet s = .next ((s.consume.record (.read 0x08 1 (.ok [d[0]]))).respond
      { byte := d[0], flags := statusFlags d[0] }) := by
  simp [exec, execStatusGet, hp, State.memRead_ok ha]

theorem exec_deviceIdGet_ok {s : State} {d : Vector Byte 7} (hp : s.params.transportPresent = true)
    (ha : s.answer = .ok d) :
    exec .deviceIdGet s = .next ((s.consume.record (.read 0x2F 1 (.ok [d[0]]))).respond { byte := d[0] }) := by
  simp [exec, execDeviceIdGet, hp, State.memRead_ok ha]

theorem exec_readRaw_ok {s : State} {d : Vector Byte 7} (hp : s.params.transportPresent = true)
    (ha : s.answer = .ok d) :
    exec .readRaw s = .next ((s.consume.record (.read 0x00 7 (.ok d.toList))).respond
      { bytes := d, raw := Axes.ofFn (rawOfBurst s.params.axisHighByteOffset d) }) := by
  simp [exec, execReadRaw, hp, State.memRead_ok ha]

theorem exec_statusGet_err {s : State} {e : Nat} (hp : s.params.transportPresent = true) (ha : s.answer = .err e) :
    exec .statusGet s = .next ((s.consume.record (.read 0x08 1 (.err e))).raise (.busError e)) := by
  simp [exec, execStatusGet, hp, State.memRead_err ha]

theorem exec_deviceIdGet_err {s : State} {e : Nat} (hp : s.params.transportPresent = true) (ha : s.answer = .err e) :
    exec .deviceIdGet s = .next ((s.consume.record (.read 0x2F 1 (.err e))).raise (.busError e)) := by
  simp [exec, execDeviceIdGet, hp, State.memRead_err ha]

theorem exec_readRaw_err {s : State} {e : Nat} (hp : s.params.transportPresent = true) (ha : s.answer = .err e) :
    exec .readRaw s = .next ((s.consume.record (.read 0x00 7 (.err e))).raise (.busError e)) := by
  simp [exec, execReadRaw, hp, State.memRead_err ha]

/-! ### What every effect leaves alone -/

theorem Effect.params {s t : State} {i : Instr} (h : Effect s i t) : t.params = s.params := by
  cases h <;> simp

theorem Effect.requests {s t : State} {i : Instr} (h : Effect s i t) : t.requests = s.requests := by
  cases h <;> simp

/-- One response per instruction (R59). -/
theorem Effect.responses {s t : State} {i : Instr} (h : Effect s i t) :
    ∃ r, t.responses = s.responses ++ [r] := by
  cases h with
  | got f c hc => unfold State.respondDecoded; split <;> exact ⟨_, rfl⟩
  | decoded f b => unfold State.respondDecoded; split <;> exact ⟨_, rfl⟩
  | _ => simp

/-- A transaction at the end of the trace used up one answer. -/
theorem consume_record_traffic (s : State) (e : PortEvent) : Traffic s (s.consume.record e) [e] := by
  refine ⟨by simp, ?_, ?_⟩ <;>
  · simp only [State.record_answers, State.record_draws, State.consume]
    split <;> simp_all

/-- A response is no traffic. -/
theorem Traffic.respond {s t : State} {es : List PortEvent} (h : Traffic s t es) (r : Response) :
    Traffic s (t.respond r) es := ⟨h.trace, h.answers, h.draws⟩

/-- An error is no traffic. -/
theorem Traffic.raise {s t : State} {es : List PortEvent} (h : Traffic s t es) (e : Raised) :
    Traffic s (t.raise e) es := ⟨h.trace, h.answers, h.draws⟩

/-! ### The step -/

theorem step_request {s : State} {q : Request} {rest : List Request} (h : s.requests = q :: rest) :
    step s = serve q { s with requests := rest } := by
  simp [step, State.takeRequest, h]

/-- A request presented in front is served in the state it was presented in. -/
@[simp] theorem step_presentNext (s : State) (q : Request) : step (s.presentNext q) = serve q s := rfl

theorem step_idle {s : State} (h : s.requests = []) : step s = .next s := by
  simp [step, State.takeRequest, h, idle]

/-- What one step can do: wait, reject an illegal word, or run the decoded instruction. -/
theorem step_cases {s t : State} (h : step s = .next t) :
    (s.requests = [] ∧ t = s) ∨
    (∃ q rest e, s.requests = q :: rest ∧ decode q = .error e ∧
      t = State.raise { s with requests := rest } .invalidArgument) ∨
    (∃ q rest i, s.requests = q :: rest ∧ decode q = .ok i ∧ Effect { s with requests := rest } i t) := by
  cases hr : s.requests with
  | nil =>
    rw [step_idle hr] at h
    exact .inl ⟨rfl, (Host.Outcome.next.inj h).symm⟩
  | cons q rest =>
    rw [step_request hr] at h
    unfold serve at h
    cases hd : decode q with
    | error e =>
      rw [hd] at h
      exact .inr (.inl ⟨q, rest, e, rfl, hd, (Host.Outcome.next.inj h).symm⟩)
    | ok i =>
      rw [hd] at h
      exact .inr (.inr ⟨q, rest, i, rfl, hd, exec_effect h⟩)

end Sys2Proof.Machine
end

