-- ==== Sys2Proof/Laws/PerInstr.lean ====
section
/-! SUPPORT. What holds of every instruction as syntax: its word lies in its own row of the opcode table (30_encoding.md
R67, R71). -/
namespace Sys2Proof.Laws.MatchesRow

/-- The word of an instruction matches its row: the bits the row fixes, the must-be-0 fields among them, are as the row
says. -/
def Statement (i : Instr) : Prop := (encode i).cmd &&& i.opcode.maskWord = i.opcode.matchWord

theorem setField (f : Field) (val : Byte) : Statement (.setField f val) := by
  rw [Statement, matches_row_iff]
  simp [encode, fieldWord, Instr.opcode, Opcode.valUnused, Opcode.pairUnused]

theorem getField (f : Field) : Statement (.getField f) := by
  rw [Statement, matches_row_iff]
  simp [encode, fieldWord, Instr.opcode, Opcode.pairUnused]

theorem statusGet : Statement .statusGet := by
  rw [Statement, matches_row_iff]
  simp [encode, plainWord, Instr.opcode]

theorem deviceIdGet : Statement .deviceIdGet := by
  rw [Statement, matches_row_iff]
  simp [encode, plainWord, Instr.opcode]

theorem fieldEncode (f : Field) (byte val : Byte) : Statement (.fieldEncode f byte val) := by
  rw [Statement, matches_row_iff]
  simp [encode, fieldWord, Instr.opcode, Opcode.byteUnused, Opcode.valUnused, Opcode.pairUnused]

theorem fieldDecode (f : Field) (byte : Byte) : Statement (.fieldDecode f byte) := by
  rw [Statement, matches_row_iff]
  simp [encode, fieldWord, Instr.opcode, Opcode.byteUnused, Opcode.pairUnused]

theorem readRaw : Statement .readRaw := by
  rw [Statement, matches_row_iff]
  simp [encode, plainWord, Instr.opcode]

theorem toPhysical (rx ry rz : Raw) : Statement (.toPhysical rx ry rz) := by
  rw [Statement, matches_row_iff]
  simp [encode, plainWord, Instr.opcode]

end Sys2Proof.Laws.MatchesRow
end

