-- ==== Sys2Proof/Laws/Trace.lean ====
section
/-! SUPPORT. How the claims about a trace grow with it. -/
namespace Sys2Proof.Machine

@[simp] theorem replay_nil (clears : Bool) : replay clears [] = Shadow.zero := rfl

@[simp] theorem replay_append (clears : Bool) (a b : List PortEvent) :
    replay clears (a ++ b) = b.foldl (replayEvent clears) (replay clears a) := by
  simp [replay, List.foldl_append]

@[simp] theorem replayEvent_read (clears : Bool) (sh : Shadow) (addr : Byte) (n : Nat) (r : PortReply) :
    replayEvent clears sh (.read addr n r) = sh := rfl

@[simp] theorem replayEvent_delay (clears : Bool) (sh : Shadow) (ms : Nat) :
    replayEvent clears sh (.delay ms) = sh := rfl

@[simp] theorem replayEvent_failed (clears : Bool) (sh : Shadow) (addr : Byte) (bs : List Byte) (e : Nat) :
    replayEvent clears sh (.write addr bs (.err e)) = sh := by
  unfold replayEvent; split <;> simp_all

theorem replayEvent_write (clears : Bool) (sh : Shadow) (c : Ctrl) (b : Byte) (bs : List Byte) :
    replayEvent clears sh (.write c.address [b] (.ok bs)) =
      if clears && PortEvent.assertsSwReset (.write c.address [b] (.ok bs)) then Shadow.zero
      else sh.set c (b &&& ~~~(strobeBits c)) := by
  simp [replayEvent]


theorem settledFrom_append (ms : Nat) (a b : List PortEvent) :
    ∀ owed, settledFrom ms owed a = true → settledFrom ms owed (a ++ b) = settledFrom ms false b := by
  induction a with
  | nil => intro owed h; cases owed <;> simp_all [settledFrom]
  | cons e rest ih =>
    intro owed h
    simp only [settledFrom, Bool.and_eq_true, List.cons_append] at h ⊢
    rw [h.1, ih _ h.2, Bool.true_and]

/-- A write to CTRL1 is a software reset exactly when its byte has bit 7. -/
theorem assertsSwReset_write (c : Ctrl) (b : Byte) (bs : List Byte) :
    PortEvent.assertsSwReset (.write c.address [b] (.ok bs)) = (c == .ctrl1 && b.getLsbD 7) := by
  cases c <;> rfl

end Sys2Proof.Machine
end

