-- ==== Sys2Proof/Tests/Slice0.lean ====
section
/-! SUPPORT. Small tests, every expected value from spec/ (30_encoding.md, 95_test_vectors.md), and a witness for the
hypotheses of each obligation. -/
namespace Sys2Proof.Tests
open Sys2Proof Sys2Proof.Machine

/-! ### Helpers -/

/-- A state with this shadow and these port answers. -/
def start (a b c d : Byte) (answers : List PortAnswer) (p : Params := Params.default) : State :=
  { State.resetWith p with shadow := ⟨a, b, c, d⟩, answers := answers }

/-- The port answers a read with these bytes. -/
def gives (bytes : List Byte) : PortAnswer := .ok (Vector.ofFn fun i : Fin 7 => bytes.getD i.val 0)

/-- What a request leaves to be seen: the shadow, the responses, the trace. -/
def seen (cmd : BitVec 32) (s : State) : Option (Shadow × List Response × List PortEvent) :=
  (nextState? (serve ⟨cmd, 0⟩ s)).map fun t => (t.shadow, t.responses, t.trace)

/-- The cause for which the decoder rejects a word, if it does. -/
def rejects (cmd : BitVec 32) : Option Illegal :=
  match decode ⟨cmd, 0⟩ with
  | .ok _ => none
  | .error e => some e

def noPort : Params := { Params.default with transportPresent := false }
def noDelay : Params := { Params.default with delayPresent := false }
def clearing : Params := { Params.default with swResetClearsShadow := true }
def swapped : Params := { Params.default with axisHighByteOffset := 1 }
def rejected : List Response := [{ status := .invalidArgument }]

/-! ### WellFormed (R66) -/

theorem test_set_field_of_status_ill_formed : (Instr.setField .measMDone 1).wellFormed = false := by decide

theorem test_get_field_of_status_ill_formed : (Instr.getField .otpRdDone).wellFormed = false := by decide

theorem test_decode_of_status_well_formed : (Instr.fieldDecode .otpRdDone 0x13).wellFormed = true := by decide

/-! ### Decode: one word of each row, bit by bit from R62 to R65 -/

-- OP 0001, REG 001, FLD 000, RSV 000000, BYTE 00000000, VAL 00000001
theorem test_decode_set_field :
    decodeTableWord 32 0b0001_001_000_000000_00000000_00000001 = some (.setField .bandwidth 1) := by decide

-- OP 0010, REG 001, FLD 011
theorem test_decode_get_field :
    decodeTableWord 32 0b0010_001_011_000000_00000000_00000000 = some (.getField .swReset) := by decide

theorem test_decode_status_get :
    decodeTableWord 32 0b0011_000_000_000000_00000000_00000000 = some .statusGet := by decide

theorem test_decode_device_id_get :
    decodeTableWord 32 0b0100_000_000_000000_00000000_00000000 = some .deviceIdGet := by decide

-- OP 0101, REG 001, FLD 010, BYTE 11111111, VAL 0
theorem test_decode_field_encode :
    decodeTableWord 32 0b0101_001_010_000000_11111111_00000000 = some (.fieldEncode .yzInhibit 0xFF 0) := by decide

-- OP 0110, REG 100, FLD 010, BYTE 00010011
theorem test_decode_field_decode :
    decodeTableWord 32 0b0110_100_010_000000_00010011_00000000 = some (.fieldDecode .otpRdDone 0x13) := by decide

theorem test_decode_read_raw :
    decodeTableWord 32 0b0111_000_000_000000_00000000_00000000 = some .readRaw := by decide

-- the full request of 95_test_vectors.md 2.4
theorem test_decode_to_physical :
    decode? ⟨0b1000_000_000_000000_00000000_00000000, 0x3FFFF800000000⟩ =
      some (.toPhysical 0x3FFFF 0x20000 0) := by decide

-- 95_test_vectors.md 2.5 (and 2.2's last rows), each with R71's cause
theorem test_decode_rejects :
    [0x00000000, 0x90000000, 0xF0000000].map rejects = List.replicate 3 (some .reservedOpcode) ∧
    [0x12010001, 0x12000101, 0x30000001, 0x42000000, 0x70000100, 0x80000001, 0x6800FF01].map rejects =
      List.replicate 7 (some .mustBeZero) ∧
    [0x18000001, 0x28000000, 0x21C00000, 0x23000000, 0x26C00000, 0x2C800000, 0x2A000000, 0x5E000000,
      0x58C00000].map rejects = List.replicate 9 (some .unacceptedPair) := by decide

-- 95_test_vectors.md 2.5: no traffic, the shadow as it was
theorem test_illegal_word_response :
    seen 0x12010001 (start 0 0x1D 0 0 []) = some (⟨0, 0x1D, 0, 0⟩, rejected, []) := by decide

/-! ### The assembler (R74's examples, R75) -/

theorem test_asm_examples :
    assembleLine "SET_FIELD CTRL1.bandwidth, 1".toList = some (.request ⟨0x12000001, 0⟩) ∧
    assembleLine "GET_FIELD CTRL1.sw_reset ; comment".toList = some (.request ⟨0x22C00000, 0⟩) ∧
    assembleLine "FIELD_ENCODE CTRL1.yz_inhibit, 0xFF, 0".toList = some (.request ⟨0x5280FF00, 0⟩) ∧
    assembleLine "FIELD_DECODE STATUS.otp_rd_done, 0x13".toList = some (.request ⟨0x68801300, 0⟩) := by decide

theorem test_asm_to_physical :
    assembleLine "TO_PHYSICAL 0x2A5A6, 0x1FFFD, 0x10003".toList =
      some (.request ⟨0x80000000, 0x2A5A67FFF50003⟩) := by decide

theorem test_asm_pseudo :
    assembleLine "SW_RESET".toList = some (.request ⟨0x12C00001, 0⟩) ∧
    assembleLine "SET_BANDWIDTH 0b11".toList = some (.request ⟨0x12000003, 0⟩) ∧
    assembleLine "READ_FIELD".toList = some (.readField ⟨0x70000000, 0⟩) := by decide

-- 95_test_vectors.md P2, steps 5 and 6, with another request waiting
theorem test_read_field :
    (nextState? (runReadField { start 0 0 0 0 [gives [0xA9, 0x69, 0x7F, 0xFF, 0x40, 0x00, 0x9C]] with
      requests := [⟨0x40000000, 0⟩] })).map (fun t => (t.requests, t.responses.map fun r => (r.gauss, r.ut))) =
      some ([⟨0x40000000, 0⟩], [(⟨0, 0, 0⟩, ⟨0, 0, 0⟩),
        (⟨0x0A5A6, 0x3FFFD, 0x30003⟩, ⟨0x102D36, 0x7FFFB5, 0x67004B⟩)]) := by decide

theorem test_asm_rejects :
    assembleLine "GET_FIELD STATUS.meas_m_done".toList = none ∧
    assembleLine "SET_FIELD CTRL1.bandwidth, 256".toList = none ∧
    assembleLine "TO_PHYSICAL 262144, 0, 0".toList = none ∧
    assembleLine "GET_FIELD CTRL0.bandwidth".toList = none := by decide

/-! ### SET_FIELD (95_test_vectors.md 2.1) -/

-- S8: only the strobe bit is cleared
theorem test_set_field_strobe :
    seen 0x10000001 (start 0x64 0 0 0 [gives []]) =
      some (⟨0x64, 0, 0, 0⟩, [{ byte := 0x65 }], [.write 0x09 [0x65] (.ok [])]) := by decide

-- S9: the software reset
theorem test_set_field_software_reset :
    seen 0x12C00001 (start 0 0x04 0x05 0 [gives []]) =
      some (⟨0, 0x04, 0x05, 0⟩, [{ byte := 0x84 }], [.write 0x0A [0x84] (.ok []), .delay 15]) := by decide

/-! ### GET_FIELD (S2, S4) -/

theorem test_get_field :
    seen 0x22000000 (start 0 0x1D 0 0 []) = some (⟨0, 0x1D, 0, 0⟩, [{ byte := 0x01 }], []) := by decide

theorem test_get_field_decode_error :
    seen 0x24000000 (start 0 0 0x05 0 []) =
      some (⟨0, 0, 0x05, 0⟩, [{ status := .decodeError, byte := 0x05 }], []) := by decide

/-! ### STATUS_GET (S16, S17) -/

theorem test_status_get :
    seen 0x30000000 (start 0 0 0 0 [gives [0x02]]) =
      some (⟨0, 0, 0, 0⟩, [{ byte := 0x02, flags := 0b010 }], [.read 0x08 1 (.ok [0x02])]) := by decide

theorem test_status_get_bus_error :
    seen 0x30000000 (start 0 0 0 0 [.err 0xA5]) =
      some (⟨0, 0, 0, 0⟩, [{ status := .busError, busErr := 0xA5 }], [.read 0x08 1 (.err 0xA5)]) := by decide

/-! ### DEVICE_ID_GET (S19, R76) -/

theorem test_device_id_get :
    seen 0x40000000 (start 0 0 0 0 [gives [0x31]]) =
      some (⟨0, 0, 0, 0⟩, [{ byte := 0x31 }], [.read 0x2F 1 (.ok [0x31])]) := by decide

theorem test_device_id_get_no_port :
    seen 0x40000000 (start 0 0 0 0 [gives [0x30]] noPort) = some (⟨0, 0, 0, 0⟩, rejected, []) := by decide

/-! ### FIELD_ENCODE (2.2, corner cases) -/

theorem test_field_encode :
    seen 0x52801C02 (start 0 0 0 0 []) = some (⟨0, 0, 0, 0⟩, [{ byte := 0x14 }], []) := by decide

theorem test_field_encode_masks :
    seen 0x540000F9 (start 0 0 0 0 []) = some (⟨0, 0, 0, 0⟩, [{ byte := 0x01 }], []) := by decide

/-! ### FIELD_DECODE (2.2, corner cases) -/

theorem test_field_decode :
    seen 0x62005A00 (start 0 0 0 0 []) = some (⟨0, 0, 0, 0⟩, [{ byte := 0x02 }], []) := by decide

theorem test_field_decode_error :
    seen 0x64000D00 (start 0 0 0 0 []) =
      some (⟨0, 0, 0, 0⟩, [{ status := .decodeError, byte := 0x05 }], []) := by decide

/-! ### READ_RAW (2.3) -/

def burst : List Byte := [0xA9, 0x69, 0x7F, 0xFF, 0x40, 0x00, 0x9C]

theorem test_read_raw :
    seen 0x70000000 (start 0 0 0 0 [gives burst]) =
      some (⟨0, 0, 0, 0⟩,
        [{ bytes := #v[0xA9, 0x69, 0x7F, 0xFF, 0x40, 0x00, 0x9C], raw := ⟨0x2A5A6, 0x1FFFD, 0x10003⟩ }],
        [.read 0x00 7 (.ok burst)]) := by decide

theorem test_read_raw_swapped :
    seen 0x70000000 (start 0 0 0 0 [gives burst] swapped) =
      some (⟨0, 0, 0, 0⟩,
        [{ bytes := #v[0xA9, 0x69, 0x7F, 0xFF, 0x40, 0x00, 0x9C], raw := ⟨0x1A6A6, 0x3FDFD, 0x00103⟩ }],
        [.read 0x00 7 (.ok burst)]) := by decide

/-! ### TO_PHYSICAL (2.4) -/

theorem test_to_physical :
    (nextState? (serve ⟨0x80000000, 0x3FFFF800000000⟩ (start 0 0 0 0 []))).map State.responses =
      some [{ gauss := ⟨0x1FFFF, 0x00000, 0x20000⟩, ut := ⟨0x31FFE7, 0x000000, 0x4E0000⟩ }] := by decide

theorem test_to_physical_lanes :
    [0x00001, 0x0FFFF, 0x1FFFF, 0x2A5A7].map (fun r => (gaussOf r, utOf r)) =
      [(0x20001, 0x4E0019), (0x2FFFF, 0x66FFE7), (0x3FFFF, 0x7FFFE7), (0x0A5A7, 0x102D4F)] := by decide

/-! ### Witnesses: a state and operands that meet the hypotheses of each obligation -/

/-- A state that meets `State.Inv`, after one measurement strobe, with a request lined up and two answers of the port. -/
def running : State where
  shadow := ⟨0x04, 0, 0, 0⟩
  params := Params.default
  requests := [⟨0x12C00001, 0⟩]
  responses := [{ byte := 0x05 }]
  trace := [.write 0x09 [0x05] (.ok [])]
  answers := [gives burst, gives burst]
  draws := 0

/-- The same, with a port that answers an error. -/
def failing : State := { running with answers := [.err 0x105] }

theorem running_inv : running.Inv where
  clean := ⟨fun c => by cases c <;> decide, fun c => by cases c <;> decide⟩
  mirror := by decide
  legal := by simp [running, PortEvent.Legal, PortReply.Fits]
  settled := by unfold Settled; decide
  fits := by simp [running, Response.Fits]

theorem running_steps : ∃ t, step running = .next t := ⟨_, rfl⟩

theorem test_witness_DecodeOfEncode : (Instr.setField .swReset 0xFF).wellFormed = true := by decide

theorem test_witness_EncodeOfDecode :
    decode ⟨0x80000000, 0x3FFFF800000000⟩ = .ok (.toPhysical 0x3FFFF 0x20000 0) ∧
      (Instr.toPhysical 0x3FFFF 0x20000 0).opcode = .toPhysical := by decide

theorem test_witness_OpcodeRowsDisjoint :
    (0x12000001 : BitVec 32) &&& Opcode.setField.maskWord = Opcode.setField.matchWord := by decide

theorem test_witness_DecoderRejectsByCause :
    ReservedOp 0x0FFFFFFF ∧ ReservedOp 0x90000000 ∧ ¬ReservedOp 0x10000000 ∧ ¬ReservedOp 0x8FFFFFFF ∧
      ¬UnusedZero 0x8FFFFFFF ∧ UnusedZero 0x26C00000 ∧ UnacceptedPair 0x26C00000 ∧ LegalWord 0x26800000 := by
  simp only [LegalWord, ReservedOp, UnusedZero, UnacceptedPair]; and_intros <;> decide

theorem test_witness_FieldPairAcceptance :
    (cmdNum 0x26800000 28 4 ∈ [1, 2, 5, 6] ∧ UnusedZero 0x26800000 ∧ rejects 0x26800000 = none) ∧
    (cmdNum 0x28000000 28 4 ∈ [1, 2, 5, 6] ∧ UnusedZero 0x28000000 ∧ rejects 0x28000000 = some .unacceptedPair) ∧
    (cmdNum 0x68801300 28 4 ∈ [1, 2, 5, 6] ∧ UnusedZero 0x68801300 ∧ rejects 0x68801300 = none) ∧
    (cmdNum 0x58C00000 28 4 ∈ [1, 2, 5, 6] ∧ UnusedZero 0x58C00000 ∧ rejects 0x58C00000 = some .unacceptedPair) := by
  simp only [UnusedZero]; and_intros <;> decide

theorem test_witness_UnusedBitsMustBeZero :
    ¬UnusedZero 0x80000001 ∧ cmdNum 0x70000000 28 4 ≠ 8 ∧ ∃ i, decode ⟨0x80000000, 0x3FFFFF⟩ = .ok i :=
  ⟨by simp only [UnusedZero]; decide, by decide, _, rfl⟩

theorem test_witness_AssembledRequestsAreLegal :
    assembleLine "SET_BANDWIDTH 1".toList = some (.request ⟨0x12000001, 0⟩) ∧
      assembleLine "READ_FIELD".toList = some (.readField ⟨0x70000000, 0⟩) := by decide

theorem test_witness_StepRunsDecoded :
    running.requests = [⟨0x12C00001, 0⟩] ∧ decode ⟨0x12C00001, 0⟩ = .ok (.setField .swReset 1) := by decide

theorem test_witness_PlacedWordRuns : decodeTableWord 32 0x12C00001 = some (.setField .swReset 1) := by decide

theorem test_witness_WaitChangesNothing : State.reset.requests = [] := by decide

theorem test_witness_IllegalWordAnswer :
    (State.reset.present ⟨0x90000000, 0⟩).requests = [⟨0x90000000, 0⟩] ∧ ¬LegalWord 0x90000000 := by
  simp only [LegalWord, ReservedOp, UnusedZero, UnacceptedPair]; decide

theorem test_witness_EveryRequestOneResponse : running.requests = [⟨0x12C00001, 0⟩] := by decide

-- a plain field, a strobe, and `sw_reset` written with 0
theorem test_witness_SetFieldWritesAndCommits :
    running.params.transportPresent = true ∧ (∃ d, running.answer = .ok d) ∧
    Field.bandwidth.ctrl? = some .ctrl1 ∧ Field.tmM.ctrl? = some .ctrl0 ∧
    (Field.swReset.ctrl? = some .ctrl1 ∧ (0xFE : Byte).getLsbD 0 = false) :=
  ⟨by decide, ⟨_, rfl⟩, by decide, by decide, by decide⟩

theorem test_witness_SoftwareResetSettles :
    (0xFF : Byte).getLsbD 0 = true ∧
    ∀ p ∈ [Params.default, clearing], p.transportPresent = true ∧ p.delayPresent = true ∧
      (start 0 0x04 0 0 [gives []] p).answer = gives [] := by decide

theorem test_witness_FailedWriteRollsBack :
    (Field.swReset.ctrl? = some .ctrl1 ∧ failing.params.transportPresent = true ∧ (0x01 : Byte).getLsbD 0 = true ∧
      failing.params.delayPresent = true ∧ failing.answer = .err 0x05) ∧
    ∃ t, serve ⟨0x18000001, 0⟩ running = .next t ∧
      t.responses = running.responses ++ [{ status := .invalidArgument }] :=
  ⟨by decide, _, rfl, rfl⟩

theorem test_witness_NoWriteElision :
    ∀ f ∈ [Field.cmmEn, .swReset], f.shadowed = true ∧ running.params.transportPresent = true ∧
      running.params.delayPresent = true ∧ running.params.swResetClearsShadow = false ∧
      running.answer = gives burst ∧
      (nextState? (exec (.setField f 1) running)).map State.answer = some (gives burst) := by decide

-- the clause of the software reset that zeroes the shadow
theorem test_witness_NoWriteElision_clearing :
    let s := start 0 0x04 0 0 [gives burst, gives burst] clearing
    (0x01 : Byte).getLsbD 0 = true ∧ s.params.transportPresent = true ∧ s.params.delayPresent = true ∧
      s.params.swResetClearsShadow = true ∧ s.answer = gives burst ∧
      (nextState? (exec (.setField .swReset 0x01) s)).map State.answer = some (gives burst) := by decide

theorem test_witness_ValueIsMaskedToWidth :
    (0x06 : Byte).toNat % 2 ^ Field.bandwidth.info.width = (0x02 : Byte).toNat % 2 ^ Field.bandwidth.info.width := by
  decide

theorem test_witness_GetFieldReadsShadow :
    Field.cmFreq.ctrl? = some .ctrl2 ∧ 4 ≤ (0x04 : Byte).toNat / 2 ^ Field.cmFreq.info.off % 2 ^ Field.cmFreq.info.width ∧
      ¬4 ≤ (0xFB : Byte).toNat / 2 ^ Field.cmFreq.info.off % 2 ^ Field.cmFreq.info.width := by decide

-- StatusGetReadsFlags, DeviceIdGetReturnsByte, and ReadRawAssembles with either byte placement
theorem test_witness_successful_read : running.params.transportPresent = true ∧ running.answer = gives burst ∧
    running.params.axisHighByteOffset = 0 ∧ (start 0 0 0 0 [gives burst] swapped).params.axisHighByteOffset = 1 ∧
    (start 0 0 0 0 [gives burst] swapped).answer = gives burst := by decide

theorem test_witness_FailedReadAnswersBusError :
    failing.params.transportPresent = true ∧ failing.answer = .err 0x05 := by decide

theorem test_witness_EncodeMergesField : 7 + 1 ≤ 8 ∧ 0 + 8 ≤ 8 ∧ 5 + 3 ≤ 8 := by decide

theorem test_witness_DecodeExtractsField :
    ∀ i, 1 ≤ i → i < 1 + 7 → (0xA5 : Byte).getLsbD i = (0xA4 : Byte).getLsbD i := by
  intro i h1 h2
  interval_cases i <;> decide

theorem test_witness_CodecLaws :
    Field.spi3w.reg = Field.stEnp.reg ∧ Field.spi3w ≠ Field.stEnp ∧ ¬InField .yzInhibit 2 ∧ InField .yzInhibit 3 ∧
      InField .yzInhibit 4 ∧ ¬InField .yzInhibit 5 := by
  simp only [InField]; decide

theorem test_witness_ConversionLaws :
    (0x3FFFF : Raw).toNat = (0x3FFFE : Raw).toNat + 1 ∧ binary32.Rounds id ∧ binary64.Rounds id :=
  ⟨by decide, fun _ _ => rfl, fun _ _ => rfl⟩

-- the X bytes and the X group of the extension byte agree, all else differs
theorem test_witness_LanesIndependent :
    ∃ (s s' t t' : State) (r r' : Response) (d d' : Vector Byte 7),
      s.params.transportPresent = true ∧ s'.params.transportPresent = true ∧
      s.params.axisHighByteOffset = s'.params.axisHighByteOffset ∧ s.answer = .ok d ∧ s'.answer = .ok d' ∧
      (∀ i : Fin 7, i.val = 2 * Axis.x.index.val ∨ i.val = 2 * Axis.x.index.val + 1 → d[i] = d'[i]) ∧
      (∀ k, k < 2 → d[6].getLsbD (6 - 2 * Axis.x.index.val + k) = d'[6].getLsbD (6 - 2 * Axis.x.index.val + k)) ∧
      exec .readRaw s = .next t ∧ exec .readRaw s' = .next t' ∧
      t.responses = s.responses ++ [r] ∧ t'.responses = s'.responses ++ [r'] ∧ d ≠ d' :=
  ⟨start 0 0 0 0 [.ok #v[0xA9, 0x69, 1, 2, 3, 4, 0x9C]], start 0 0 0 0 [.ok #v[0xA9, 0x69, 5, 6, 7, 8, 0x80]], _, _,
    _, _, #v[0xA9, 0x69, 1, 2, 3, 4, 0x9C], #v[0xA9, 0x69, 5, 6, 7, 8, 0x80],
    by decide, by decide, by decide, rfl, rfl, by decide, by decide, rfl, rfl, rfl, rfl, by decide⟩

-- an OK answer, a failed one, and no port
theorem test_witness_ReadFieldConvertsWhatWasRead :
    running.params.transportPresent = true ∧ running.answer = gives burst ∧ failing.answer = .err 0x05 ∧
      (start 0 0 0 0 [] noPort).params.transportPresent = false := by decide

theorem test_witness_PortPresenceCheck :
    usesPort .readRaw = true ∧ noPort.transportPresent = false ∧ usesPort (.toPhysical 0 0 0) = false := by decide

-- InvalidArgumentCauses: its causes 4 and 5 (1 to 3 are in test_witness_DecoderRejectsByCause)
theorem test_witness_PortMissing_DelayMissing :
    PortMissing 0x70000000 noPort ∧ DelayMissing 0x12C00001 noDelay ∧ ¬DelayMissing 0x12C00000 noDelay := by
  simp only [PortMissing, DelayMissing]; decide

theorem test_witness_RefusedInstructions :
    refusedFor noPort .statusGet = true ∧ refusedFor noPort (.getField .tmM) = false ∧
    refusedFor noDelay (.setField .swReset 3) = true ∧ refusedFor noDelay (.setField .swReset 2) = false ∧
    refusedFor Params.default (.getField .measMDone) = true := by decide

theorem test_witness_BusErrorVerbatim :
    usesPort .deviceIdGet = true ∧ refusedFor failing.params .deviceIdGet = false ∧ failing.answer = .err 0x05 := by
  decide

theorem test_witness_DecodeErrorCauses :
    4 ≤ (⟨0, 0, 0x04, 0⟩ : Shadow).ctrl2.toNat % 8 ∧ ¬4 ≤ (⟨0, 0, 0xFB, 0⟩ : Shadow).ctrl2.toNat % 8 ∧
      4 ≤ (0x0F : Byte).toNat % 8 := by decide

-- one error of each kind
theorem test_witness_ErrorsChangeNothing :
    (∃ t r, exec (.fieldDecode .cmFreq 0x04) running = .next t ∧ t.responses = running.responses ++ [r] ∧
      r.status = .decodeError) ∧
    (∃ t r, exec (.setField .tmT 1) failing = .next t ∧ t.responses = failing.responses ++ [r] ∧
      r.status = .busError) ∧
    (∃ t r, exec (.setField .measTDone 1) running = .next t ∧ t.responses = running.responses ++ [r] ∧
      r.status = .invalidArgument) :=
  ⟨⟨_, _, rfl, rfl, rfl⟩, ⟨_, _, rfl, rfl, rfl⟩, ⟨_, _, rfl, rfl, rfl⟩⟩

theorem test_witness_TransactionsOfEachOperation :
    (∃ t, exec (.setField .swReset 1) running = .next t) ∧ refusedFor running.params (.setField .swReset 1) = false ∧
    refusedFor noPort (.setField .swReset 1) = true ∧ ¬LegalWord 0x18000001 ∧
    ∃ t, serve ⟨0x18000001, 0⟩ running = .next t := by
  refine ⟨⟨_, rfl⟩, by decide, by decide, ?_, ⟨_, rfl⟩⟩
  simp only [LegalWord, ReservedOp, UnusedZero, UnacceptedPair]; decide

theorem test_witness_DeviceRegistersTouched :
    ∃ t, exec .readRaw running = .next t ∧ t.trace = running.trace ++ [.read 0x00 7 (.ok burst)] ∧
      6 ∈ (PortEvent.read 0x00 7 (.ok burst)).addresses :=
  ⟨_, rfl, by decide, by decide⟩

theorem test_witness_ShadowAccess :
    (∃ t, exec (.setField .spi3w 1) running = .next t ∧ t.shadow ≠ running.shadow) ∧
    ∃ t, exec .readRaw running = .next t :=
  ⟨⟨_, rfl, by decide⟩, ⟨_, rfl⟩⟩

theorem test_witness_OnlyShadowSurvives :
    running.shadow = ({ running with trace := [], responses := [] } : State).shadow ∧
    running.answer = ({ running with trace := [], responses := [] } : State).answer := by decide

theorem test_witness_ParametersAreStatic : ∃ t, step running = .next t ∧ t ≠ running := ⟨_, rfl, by decide⟩

theorem test_witness_SelfClearInvariant :
    (Field.reset ∈ [Field.swReset, .tmM, .tmT, .set, .reset] ∧ ∃ t r, exec (.setField .reset 1) running = .next t ∧
      t.responses = running.responses ++ [r] ∧ r.status = .ok) ∧
    running.shadow.StrobesClear ∧ ∃ t, step running = .next t :=
  ⟨⟨by decide, _, _, rfl, rfl, rfl⟩, running_inv.clean.1, running_steps⟩

theorem test_witness_UnlistedBitsStayZero : running.shadow.UnlistedClear ∧ ∃ t, step running = .next t :=
  ⟨running_inv.clean.2, running_steps⟩

theorem test_witness_ShadowMirrorsTheWrites :
    running.shadow.Clean ∧ running.shadow = replay running.params.swResetClearsShadow running.trace ∧
      ∃ t, step running = .next t :=
  ⟨running_inv.clean, running_inv.mirror, running_steps⟩

theorem test_witness_ShadowHoldsLastWrite :
    running.Inv ∧ running.params.swResetClearsShadow = false ∧ lastWritten .ctrl0 running.trace = some 0x05 ∧
      lastWritten .ctrl1 running.trace = none :=
  ⟨running_inv, by decide, by decide, by decide⟩

theorem test_witness_TraceStaysLegal : (∀ e ∈ running.trace, e.Legal running.params) ∧ ∃ t, step running = .next t :=
  ⟨running_inv.legal, running_steps⟩

theorem test_witness_SoftwareResetsStaySettled :
    running.shadow.StrobesClear ∧ Settled running ∧ ∃ t, step running = .next t :=
  ⟨running_inv.clean.1, running_inv.settled, running_steps⟩

theorem test_witness_ResponsesStayInForm :
    (∀ r ∈ running.responses, r.Fits running.params.busErrWidth) ∧ ∃ t, step running = .next t :=
  ⟨running_inv.fits, running_steps⟩

theorem test_witness_StepKeepsInvariant : running.Inv ∧ ∃ t, step running = .next t := ⟨running_inv, running_steps⟩

-- one request, a SET_FIELD whose write succeeds
theorem test_witness_ShadowBusConsistency_step :
    Field.bandwidth.ctrl? = some .ctrl1 ∧ Field.bandwidth.info.selfClearing = false ∧
    running.params.transportPresent = true ∧ running.params.delayPresent = true ∧
    ∃ t, serve ⟨0x12000006, 0⟩ running = .next t ∧
      ∀ e ∈ t.trace.drop running.trace.length, e.failedWrite = false :=
  ⟨by decide, by decide, by decide, by decide, _, rfl, by decide⟩

-- a field set, masked, then a software reset, without and with `SW_RESET_CLEARS_SHADOW`
theorem test_witness_ShadowBusConsistency :
    Field.bandwidth.shadowed = true ∧ Field.bandwidth.info.selfClearing = false ∧
    ∀ p ∈ [Params.default, clearing], p.transportPresent = true ∧ p.delayPresent = true ∧
      (runRequests [⟨0x12000006, 0⟩, ⟨0x12C00001, 0⟩]
        { State.resetWith p with answers := [gives [], gives []], draws := 0 }).map
          (fun t => t.trace.any PortEvent.failedWrite) = some false := by decide

end Sys2Proof.Tests
end

section
/-! PROOF. Which device registers the transactions of each operation touch (10_state.md R30, R33). -/
namespace Sys2Proof.Machine

/-! ### One event and the registers of the device map -/

/-- Every register the event touches is one that the operation uses, and a control register exactly if the event is a
write (R30, R33). -/
def PortEvent.KeepsToUsed (i : Instr) (e : PortEvent) : Prop :=
  ∀ a ∈ e.addresses, ∃ r : DeviceRegister,
    r.address.toNat = a ∧ UsesRegister i r ∧ (e.isWrite = true ↔ ∃ c, r = .control c)

theorem DeviceRegister.output_address_toNat (k : Fin 7) : (DeviceRegister.output k).address.toNat = k.val := by
  simp only [DeviceRegister.address, BitVec.toNat_ofNat]
  omega

/-- A read of one register that is no control register and that the operation uses. -/
theorem PortEvent.keepsToUsed_readOne {i : Instr} {r : DeviceRegister} (hu : UsesRegister i r)
    (hr : ∀ c, r ≠ .control c) (reply : PortReply) : PortEvent.KeepsToUsed i (.read r.address 1 reply) := by
  intro a ha
  have hra : r.address.toNat = a := by simpa [PortEvent.addresses, eq_comm] using ha
  exact ⟨r, hra, hu, by simpa [PortEvent.isWrite] using hr⟩

/-- READ_RAW's burst touches the seven output registers (R94). -/
theorem PortEvent.keepsToUsed_burst (reply : PortReply) : PortEvent.KeepsToUsed .readRaw (.read 0x00 7 reply) := by
  intro a ha
  have hlt : a < 7 := by simpa [PortEvent.addresses] using ha
  exact ⟨.output ⟨a, hlt⟩, DeviceRegister.output_address_toNat _, rfl, by simp [PortEvent.isWrite]⟩

/-- The reads of the three operations that read (R45). -/
theorem PortEvent.keepsToUsed_read {i : Instr} {addr : Byte} {n : Nat}
    (hi : i = .statusGet ∧ addr = 0x08 ∧ n = 1 ∨ i = .deviceIdGet ∧ addr = 0x2F ∧ n = 1 ∨
      i = .readRaw ∧ addr = 0x00 ∧ n = 7) (reply : PortReply) : PortEvent.KeepsToUsed i (.read addr n reply) := by
  obtain ⟨rfl, rfl, rfl⟩ | ⟨rfl, rfl, rfl⟩ | ⟨rfl, rfl, rfl⟩ := hi
  · exact keepsToUsed_readOne (r := .status) rfl nofun reply
  · exact keepsToUsed_readOne (r := .identity) rfl nofun reply
  · exact keepsToUsed_burst reply

/-- SET_FIELD writes the control register of its field (R79). -/
theorem PortEvent.keepsToUsed_write {f : Field} {c : Ctrl} (hc : f.ctrl? = some c) (val b : Byte) (reply : PortReply) :
    PortEvent.KeepsToUsed (.setField f val) (.write c.address [b] reply) := by
  intro a ha
  have hca : c.address.toNat = a := by simpa [PortEvent.addresses, eq_comm] using ha
  exact ⟨.control c, hca, ⟨f, val, rfl, hc⟩, by simp [PortEvent.isWrite]⟩

theorem PortEvent.keepsToUsed_delay (i : Instr) (ms : Nat) : PortEvent.KeepsToUsed i (.delay ms) := nofun

/-! ### The events of one instruction -/

/-- The trace grows by events that keep to the registers the operation uses. -/
theorem Effect.trace_keepsToUsed {s t : State} {i : Instr} (h : Effect s i t) :
    ∃ es, t.trace = s.trace ++ es ∧ ∀ e ∈ es, e.KeepsToUsed i := by
  cases h with
  | failedWrite f val c e hc ha =>
    exact ⟨[.write c.address [encodeField f (s.shadow.get c) (fieldValue f val)] (.err e)], by simp,
      List.forall_mem_singleton.mpr (PortEvent.keepsToUsed_write hc val _ _)⟩
  | wrote f val c d hc ha hn =>
    exact ⟨[.write c.address [encodeField f (s.shadow.get c) (fieldValue f val)] (.ok [])], by simp,
      List.forall_mem_singleton.mpr (PortEvent.keepsToUsed_write hc val _ _)⟩
  | swReset val d ha hv =>
    exact ⟨[.write 0x0A [encodeField .swReset s.shadow.ctrl1 1] (.ok []), .delay s.params.swResetDelayMs], by simp,
      List.forall_mem_cons.mpr ⟨PortEvent.keepsToUsed_write (f := .swReset) (c := .ctrl1) rfl val _ _,
        List.forall_mem_singleton.mpr (PortEvent.keepsToUsed_delay _ _)⟩⟩
  | failedRead i addr n e ha hi =>
    exact ⟨[.read addr n (.err e)], by simp, List.forall_mem_singleton.mpr (PortEvent.keepsToUsed_read hi _)⟩
  | readOk i addr n bs r hr hl ha hi =>
    exact ⟨[.read addr n (.ok bs)], by simp, List.forall_mem_singleton.mpr (PortEvent.keepsToUsed_read hi _)⟩
  | _ => exact ⟨[], by simp, nofun⟩

/-- Settles O45: the addresses are those of the device map, and every event of an instruction keeps to the registers
its operation uses. -/
theorem deviceRegistersTouched : Obligations.DeviceRegistersTouched := by
  refine ⟨DeviceRegister.output_address_toNat, rfl, rfl, Ctrl.address_eq, rfl, ?_⟩
  intro i s t es hexec htrace
  obtain ⟨es', htrace', hkeeps⟩ := (exec_effect hexec).trace_keepsToUsed
  obtain rfl : es' = es := List.append_cancel_left (htrace'.symm.trans htrace)
  exact hkeeps

end Sys2Proof.Machine
end

section
/-! PROOF. A word that the decoder accepts is legal: none of the causes 1 to 3 of R103 (30_encoding.md R66, R67,
R71). -/
namespace Sys2Proof

/-! ### What an accepted word says of itself -/

/-- An accepted word matches the row of an operation, and its operands are those of that operation. -/
theorem decode_ok {q : Request} {i : Instr} (h : decode q = .ok i) :
    ∃ op : Opcode, q.cmd &&& op.maskWord = op.matchWord ∧ decodeOperands op q = .ok i := by
  unfold decode at h
  split at h
  · cases h
  · split at h
    · exact ⟨_, ‹_›, h⟩
    · cases h

/-- The field operand is the field that REG and FLD name, and the operation accepts it (R66). -/
theorem fieldOperand_ok {op : Opcode} {cmd : BitVec 32} {f : Field} (h : fieldOperand op cmd = .ok f) :
    f.reg.code = cmdReg cmd ∧ f.index = cmdFld cmd ∧ op.accepts f = true := by
  unfold fieldOperand at h
  split at h
  · cases h
  · rename_i g hg
    split at h
    · rename_i hacc
      obtain rfl : g = f := Except.ok.inj h
      obtain ⟨hreg, hidx⟩ := Field.ofCode_eq hg
      exact ⟨hreg, hidx, hacc⟩
    · cases h

/-- An operation that uses REG and FLD has found its field operand. -/
theorem decodeOperands_ok_field {op : Opcode} {q : Request} {i : Instr} (hu : op.pairUnused = false)
    (h : decodeOperands op q = .ok i) : ∃ f, fieldOperand op q.cmd = .ok f := by
  cases hf : fieldOperand op q.cmd with
  | ok f => exact ⟨f, rfl⟩
  | error e => cases op <;> simp [decodeOperands, hf, Except.map, Opcode.pairUnused] at h hu

/-! ### The numbers of the two tables -/

/-- No operation has a reserved OP code (R63). -/
theorem Opcode.code_not_reserved (op : Opcode) : ¬(op.code.toNat = 0 ∨ 9 ≤ op.code.toNat) := by
  cases op <;> decide

/-- R67's last column, by OP number. -/
theorem Opcode.byteUnused_iff (op : Opcode) : op.byteUnused = true ↔ op.code.toNat ∉ [5, 6] := by
  cases op <;> decide

theorem Opcode.valUnused_iff (op : Opcode) : op.valUnused = true ↔ op.code.toNat ∉ [1, 5] := by
  cases op <;> decide

theorem Opcode.pairUnused_iff (op : Opcode) : op.pairUnused = true ↔ op.code.toNat ∉ [1, 2, 5, 6] := by
  cases op <;> decide

/-- FLD counts the fields of a register from 0 (R65). -/
theorem Field.index_lt_fieldCount (f : Field) : f.index.toNat < Machine.fieldCount f.reg.code.toNat := by
  cases f <;> decide

/-- SET_FIELD and GET_FIELD accept control registers only (R66). -/
theorem Opcode.reg_le_of_accepts {op : Opcode} {f : Field} (hop : op.code.toNat ∈ [1, 2])
    (h : op.accepts f = true) : f.reg.code.toNat ≤ 3 := by
  cases op with
  | setField | getField => revert h; cases f <;> decide
  | _ => exact absurd hop (by decide)

end Sys2Proof

namespace Sys2Proof.Machine

/-! ### Legal words -/

/-- A word that matches a row has no reserved OP. -/
theorem not_reservedOp_of_matches {op : Opcode} {cmd : BitVec 32} (h : cmd &&& op.maskWord = op.matchWord) :
    ¬ReservedOp cmd := by
  obtain ⟨hop, -⟩ := (matches_row_iff op cmd).mp h
  rw [ReservedOp, ← cmdOp_toNat, hop]
  exact op.code_not_reserved

/-- A word that matches a row has every field that the row's operation does not use at 0. -/
theorem unusedZero_of_matches {op : Opcode} {cmd : BitVec 32} (h : cmd &&& op.maskWord = op.matchWord) :
    UnusedZero cmd := by
  obtain ⟨hop, hrsv, hbyte, hval, hpair⟩ := (matches_row_iff op cmd).mp h
  rw [UnusedZero, ← cmdOp_toNat, ← cmdRsv_toNat, ← cmdByte_toNat, ← cmdVal_toNat, ← cmdReg_toNat, ← cmdFld_toNat,
    hop, ← op.byteUnused_iff, ← op.valUnused_iff, ← op.pairUnused_iff]
  refine ⟨by simp [hrsv], fun hu => by simp [hbyte hu], fun hu => by simp [hval hu], fun hu => ?_⟩
  obtain ⟨hreg, hfld⟩ := hpair hu
  simp [hreg, hfld]

/-- A word of a row whose operands decode names no pair that its operation rejects. -/
theorem not_unacceptedPair_of_operands {op : Opcode} {q : Request} {i : Instr}
    (hrow : q.cmd &&& op.maskWord = op.matchWord) (h : decodeOperands op q = .ok i) : ¬UnacceptedPair q.cmd := by
  obtain ⟨hop, -⟩ := (matches_row_iff op q.cmd).mp hrow
  rw [UnacceptedPair, ← cmdOp_toNat, ← cmdReg_toNat, ← cmdFld_toNat, hop]
  rintro ⟨huses, hbad⟩
  have hu : op.pairUnused = false := by
    rw [Bool.eq_false_iff, Ne, op.pairUnused_iff, not_not]
    exact huses
  obtain ⟨f, hf⟩ := decodeOperands_ok_field hu h
  obtain ⟨hreg, hfld, hacc⟩ := fieldOperand_ok hf
  rw [← hreg, ← hfld] at hbad
  exact hbad ⟨f.index_lt_fieldCount, fun hop12 => Opcode.reg_le_of_accepts hop12 hacc⟩

theorem legalWord_of_decode {q : Request} {i : Instr} (h : decode q = .ok i) : LegalWord q.cmd := by
  obtain ⟨op, hrow, hops⟩ := decode_ok h
  exact ⟨not_reservedOp_of_matches hrow, unusedZero_of_matches hrow, not_unacceptedPair_of_operands hrow hops⟩

/-- An illegal word is answered InvalidArgument, and nothing else happens (R72). -/
theorem serve_illegal {q : Request} (h : ¬LegalWord q.cmd) (s : State) :
    serve q s = .next (s.raise .invalidArgument) := by
  unfold serve
  cases hd : decode q with
  | ok i => exact absurd (legalWord_of_decode hd) h
  | error e => rfl

end Sys2Proof.Machine
end

section
/-! PROOF. The transactions and the delay of each operation (20_memory.md R45). -/
namespace Sys2Proof.Machine

/-- Settles O44: a refused instruction leaves the trace alone, every effect of one that is not refused makes the events
of its row in R45's table, and an illegal word makes none. -/
theorem transactionsOfEachOperation : Obligations.TransactionsOfEachOperation := by
  refine ⟨fun i s t hexec => ?_, fun q s t hill hserve => ?_⟩
  · cases hr : refusedFor s.params i with
    | true =>
      obtain rfl := Host.Outcome.next.inj ((exec_refused hr).symm.trans hexec)
      exact ⟨[], by simp, fun _ => rfl, nofun⟩
    | false =>
      cases exec_effect hexec with
      | invalid i h => simp [hr] at h
      | failedWrite f val c e hc ha =>
        exact ⟨[.write c.address [encodeField f (s.shadow.get c) (fieldValue f val)] (.err e)], by simp, nofun,
          fun _ => ⟨c, _, hc, rfl, .inl ⟨e, ha, by rw [Ctrl.address_eq]⟩⟩⟩
      | wrote f val c d hc ha hn =>
        rw [isSwReset_fieldValue] at hn
        exact ⟨[.write c.address [encodeField f (s.shadow.get c) (fieldValue f val)] (.ok [])], by simp, nofun,
          fun _ => ⟨c, _, hc, rfl, .inr (.inl ⟨d, ha, hn, by rw [Ctrl.address_eq]⟩)⟩⟩
      | swReset val d ha hv =>
        have hsw : asksSwReset (.setField .swReset val) = true := by
          rw [← isSwReset_fieldValue, isSwReset_iff]
          exact ⟨rfl, hv⟩
        refine ⟨[.write 0x0A [encodeField .swReset s.shadow.ctrl1 1] (.ok []), .delay s.params.swResetDelayMs],
          by simp, nofun, fun _ => ⟨.ctrl1, _, rfl, rfl, .inr (.inr ⟨d, ha, hsw, ?_⟩)⟩⟩
        rw [hv]
        rfl
      | failedRead i addr n e ha hi =>
        refine ⟨[.read addr n (.err e)], by simp, nofun, fun _ => ?_⟩
        obtain ⟨rfl, rfl, rfl⟩ | ⟨rfl, rfl, rfl⟩ | ⟨rfl, rfl, rfl⟩ := hi <;> exact ⟨_, rfl⟩
      | readOk i addr n bs r hstatus hl ha hi =>
        refine ⟨[.read addr n (.ok bs)], by simp, nofun, fun _ => ?_⟩
        obtain ⟨rfl, rfl, rfl⟩ | ⟨rfl, rfl, rfl⟩ | ⟨rfl, rfl, rfl⟩ := hi <;> exact ⟨_, rfl⟩
      | _ => exact ⟨[], by simp, nofun, fun _ => rfl⟩
  · obtain rfl := Host.Outcome.next.inj ((serve_illegal hill s).symm.trans hserve)
    rfl

end Sys2Proof.Machine
end

section
/-! PROOF. The decoder accepts exactly the legal words (30_encoding.md R63, R65 to R67, R71). -/
namespace Sys2Proof

/-! ### A word that matches a row -/

/-- A word that matches an operation's row decodes to that operation's operands (R71). -/
theorem decode_of_matches {op : Opcode} {cmd : BitVec 32} (h : cmd &&& op.maskWord = op.matchWord) (x : BitVec 54) :
    decode ⟨cmd, x⟩ = decodeOperands op ⟨cmd, x⟩ := by
  obtain ⟨hop, -⟩ := (matches_row_iff op cmd).mp h
  simp [decode, hop, h]

/-- Every OP code that is not reserved is the code of an operation (R63). -/
theorem Opcode.exists_code_eq {c : BitVec 4} (h : ¬(c.toNat = 0 ∨ 9 ≤ c.toNat)) : ∃ op : Opcode, op.code = c := by
  have hsome : (Opcode.ofCode c).isSome = true := by revert c; decide
  obtain ⟨op, hop⟩ := Option.isSome_iff_exists.mp hsome
  exact ⟨op, Opcode.ofCode_eq hop⟩

/-- SET_FIELD and GET_FIELD accept the fields with REG ≤ 3, the codec operations all (R66). -/
theorem Opcode.accepts_iff (op : Opcode) (f : Field) :
    op.accepts f = true ↔ (op.code.toNat ∈ [1, 2] → f.reg.code.toNat ≤ 3) := by
  cases op with
  | setField | getField => cases f <;> decide
  | _ => simp [Opcode.accepts, Opcode.code]

/-- REG and FLD name a field exactly if FLD is below the register's count (R65). -/
theorem exists_field_iff (reg fld : BitVec 3) :
    (∃ f : Field, f.reg.code = reg ∧ f.index = fld) ↔ fld.toNat < Machine.fieldCount reg.toNat := by
  constructor
  · rintro ⟨f, rfl, rfl⟩
    exact f.index_lt_fieldCount
  · intro h
    have hsome : (Field.ofCode reg fld).isSome = true := by revert reg fld; decide
    obtain ⟨f, hf⟩ := Option.isSome_iff_exists.mp hsome
    exact ⟨f, Field.ofCode_eq hf⟩

/-- A field that REG and FLD name and the operation accepts is the field operand (R66). -/
theorem fieldOperand_eq_ok {op : Opcode} {cmd : BitVec 32} {f : Field} (hreg : f.reg.code = cmdReg cmd)
    (hfld : f.index = cmdFld cmd) (hacc : op.accepts f = true) : fieldOperand op cmd = .ok f := by
  simp [fieldOperand, ← hreg, ← hfld, hacc]

/-- The operands decode if the operation finds the field operand that it uses. -/
theorem exists_decodeOperands {op : Opcode} {q : Request}
    (h : op.pairUnused = false → ∃ f, fieldOperand op q.cmd = .ok f) : ∃ i, decodeOperands op q = .ok i := by
  cases op with
  | setField | getField | fieldEncode | fieldDecode =>
    obtain ⟨f, hf⟩ := h rfl
    simp [decodeOperands, hf, Except.map]
  | _ => exact ⟨_, rfl⟩

end Sys2Proof

namespace Sys2Proof.Machine

/-- A word with the OP of a row, and 0 in every field that the row's operation does not use, matches the row. -/
theorem matches_of_unusedZero {op : Opcode} {cmd : BitVec 32} (hop : op.code = cmdOp cmd) (h : UnusedZero cmd) :
    cmd &&& op.maskWord = op.matchWord := by
  rw [UnusedZero, ← cmdOp_toNat, ← cmdRsv_toNat, ← cmdByte_toNat, ← cmdVal_toNat, ← cmdReg_toNat, ← cmdFld_toNat,
    ← hop, ← op.byteUnused_iff, ← op.valUnused_iff, ← op.pairUnused_iff] at h
  rw [matches_row_iff]
  simp only [← BitVec.toNat_inj]
  exact ⟨congrArg BitVec.toNat hop.symm, h⟩

/-- The decoder accepts exactly the words that none of the causes 1 to 3 of R103 rejects. -/
theorem exists_decode_iff_legalWord (q : Request) : (∃ i, decode q = .ok i) ↔ LegalWord q.cmd := by
  refine ⟨fun ⟨i, hi⟩ => legalWord_of_decode hi, fun ⟨hres, hzero, hpair⟩ => ?_⟩
  rw [ReservedOp, ← cmdOp_toNat] at hres
  obtain ⟨op, hop⟩ := Opcode.exists_code_eq hres
  rw [decode_of_matches (matches_of_unusedZero hop hzero) q.rawIn]
  refine exists_decodeOperands fun hu => ?_
  rw [UnacceptedPair, ← cmdOp_toNat, ← cmdReg_toNat, ← cmdFld_toNat, ← hop] at hpair
  have huses : op.code.toNat ∈ [1, 2, 5, 6] := by
    rwa [Bool.eq_false_iff, Ne, op.pairUnused_iff, not_not] at hu
  obtain ⟨hknown, hacc⟩ := not_not.mp fun hbad => hpair ⟨huses, hbad⟩
  obtain ⟨f, hreg, hfld⟩ := (exists_field_iff _ _).mpr hknown
  exact ⟨f, fieldOperand_eq_ok hreg hfld ((op.accepts_iff f).mpr (hreg ▸ hacc))⟩

/-- `raw_in` reaches the operands of TO_PHYSICAL only (R67). -/
theorem decode_rawIn_irrelevant {cmd : BitVec 32} (h : cmdNum cmd 28 4 ≠ 8) (x y : BitVec 54) :
    decode ⟨cmd, x⟩ = decode ⟨cmd, y⟩ := by
  rw [← cmdOp_toNat] at h
  simp only [decode]
  split
  · rfl
  · rename_i op hop
    have hoperands : decodeOperands op ⟨cmd, x⟩ = decodeOperands op ⟨cmd, y⟩ := by
      cases op with
      | toPhysical => exact absurd (congrArg BitVec.toNat (Opcode.ofCode_eq hop).symm) h
      | _ => rfl
    rw [hoperands]

/-! ### The statements of 30_encoding.md about acceptance -/

/-- Settles O6: with OP one of the four and the unused fields 0, a word is legal exactly if REG and FLD name a field
that the operation accepts. -/
theorem fieldPairAcceptance : Obligations.FieldPairAcceptance := by
  intro q s hop hzero
  refine ⟨?_, fun hrej => serve_illegal (mt (exists_decode_iff_legalWord q).mpr hrej) s⟩
  have hres : ¬ReservedOp q.cmd := by
    simp only [List.mem_cons, List.not_mem_nil, or_false] at hop
    unfold ReservedOp
    omega
  calc (∃ i, decode q = .ok i)
      ↔ LegalWord q.cmd := exists_decode_iff_legalWord q
    _ ↔ cmdNum q.cmd 22 3 < fieldCount (cmdNum q.cmd 25 3) ∧
          (cmdNum q.cmd 28 4 ∈ [1, 2] → cmdNum q.cmd 25 3 ≤ 3) := by
        simp only [LegalWord, UnacceptedPair, hres, hzero, hop, not_false_eq_true, true_and, not_not]
    _ ↔ ∃ f : Field, f.reg.code.toNat = cmdNum q.cmd 25 3 ∧ f.index.toNat = cmdNum q.cmd 22 3 ∧
          (cmdNum q.cmd 28 4 ∈ [1, 2] → cmdNum q.cmd 25 3 ≤ 3) := by
        simp only [← cmdReg_toNat, ← cmdFld_toNat, BitVec.toNat_inj, ← exists_field_iff, exists_and_right,
          ← and_assoc]

/-- Settles O7: a word with a nonzero unused field is not legal, only TO_PHYSICAL's operands see `raw_in`, and whether
a request is accepted rests on its command word alone. -/
theorem unusedBitsMustBeZero : Obligations.UnusedBitsMustBeZero := by
  refine ⟨fun q s hbad => serve_illegal (fun ⟨_, hzero, _⟩ => hbad hzero) s, fun cmd x y s hop => ?_,
    fun cmd x y hx => ?_⟩
  · simp only [serve, decode_rawIn_irrelevant hop x y]
  · exact (exists_decode_iff_legalWord ⟨cmd, y⟩).mpr ((exists_decode_iff_legalWord ⟨cmd, x⟩).mp hx)

/-- Settles O8: the lanes are the three 18-bit parts of `raw_in`, the highest with nothing above it. -/
theorem rawInLanes : Obligations.RawInLanes := by
  intro raw
  have hrow : (0x80000000 : BitVec 32) &&& Opcode.toPhysical.maskWord = Opcode.toPhysical.matchWord := by decide
  refine ⟨rawInX raw, rawInY raw, rawInZ raw, decode_of_matches hrow raw, ?_, ?_, ?_⟩
  · have hlt : raw.toNat / 2 ^ 36 < 2 ^ 18 := by omega
    rw [rawInX, BitVec.extractLsb'_toNat, Nat.shiftRight_eq_div_pow, Nat.mod_eq_of_lt hlt]
  · rw [rawInY, BitVec.extractLsb'_toNat, Nat.shiftRight_eq_div_pow]
  · rw [rawInZ, BitVec.extractLsb'_toNat, Nat.shiftRight_zero]

end Sys2Proof.Machine
end

section
/-! PROOF. The field table in numbers, and the words put together from its columns (30_encoding.md R62, R65). -/
namespace Sys2Proof

/-! ### Words with a field operand -/

/-- A command word as the sum of its fields, each at its place (R62). -/
theorem cmdWord_eq_ofNat (op : Opcode) (reg fld : BitVec 3) (byte val : Byte) :
    cmdWord op reg fld byte val = BitVec.ofNat 32 (op.code.toNat * 2 ^ 28 + reg.toNat * 2 ^ 25 + fld.toNat * 2 ^ 22 +
      byte.toNat * 2 ^ 8 + val.toNat) := by
  have hsum : (cmdWord op reg fld byte val).toNat =
      ((((op.code.toNat * 2 ^ 3 + reg.toNat) * 2 ^ 3 + fld.toNat) * 2 ^ 6 + 0) * 2 ^ 8 + byte.toNat) * 2 ^ 8 +
        val.toNat := by
    simp only [cmdWord, BitVec.toNat_append, ← Nat.shiftLeft_add_eq_or_of_lt (BitVec.isLt _)]
    simp only [Nat.shiftLeft_eq]
    rfl
  apply BitVec.eq_of_toNat_eq
  have hlt := (cmdWord op reg fld byte val).isLt
  rw [BitVec.toNat_ofNat]
  omega

/-- A word that names a field has it as its operand, if the operation accepts it. -/
theorem fieldOperand_fieldWord {op : Opcode} {f : Field} (h : op.accepts f = true) (byte val : Byte) :
    fieldOperand op (fieldWord op f byte val) = .ok f :=
  fieldOperand_eq_ok (cmdReg_cmdWord ..).symm (cmdFld_cmdWord ..).symm h

@[simp] theorem cmdByte_fieldWord (op : Opcode) (f : Field) (byte val : Byte) :
    cmdByte (fieldWord op f byte val) = byte := cmdByte_cmdWord ..

@[simp] theorem cmdVal_fieldWord (op : Opcode) (f : Field) (byte val : Byte) :
    cmdVal (fieldWord op f byte val) = val := cmdVal_cmdWord ..

/-- The FIELD_DECODE word of a field and a byte, with any `raw_in`. -/
theorem decode_fieldDecode_word (f : Field) (byte : Byte) (x : BitVec 54) :
    decode ⟨fieldWord .fieldDecode f byte 0, x⟩ = .ok (.fieldDecode f byte) := by
  have hrow : fieldWord .fieldDecode f byte 0 &&& Opcode.fieldDecode.maskWord = Opcode.fieldDecode.matchWord :=
    Laws.MatchesRow.fieldDecode f byte
  rw [decode_of_matches hrow]
  simp [decodeOperands, fieldOperand_fieldWord (op := .fieldDecode) (f := f) rfl, Except.map]

/-- The FIELD_ENCODE word of a field, a byte and a value, with any `raw_in`. -/
theorem decode_fieldEncode_word (f : Field) (byte val : Byte) (x : BitVec 54) :
    decode ⟨fieldWord .fieldEncode f byte val, x⟩ = .ok (.fieldEncode f byte val) := by
  have hrow : fieldWord .fieldEncode f byte val &&& Opcode.fieldEncode.maskWord = Opcode.fieldEncode.matchWord :=
    Laws.MatchesRow.fieldEncode f byte val
  rw [decode_of_matches hrow]
  simp [decodeOperands, fieldOperand_fieldWord (op := .fieldEncode) (f := f) rfl, Except.map]

end Sys2Proof

namespace Sys2Proof.Machine

/-! ### The codec in numbers -/

theorem mask_toNat {w : Nat} (h : w ≤ 8) : (mask w).toNat = 2 ^ w - 1 := by
  have hlt : 2 ^ w - 1 < 2 ^ 8 := by
    have := Nat.pow_le_pow_right (n := 2) (by decide) h
    omega
  rw [mask, BitVec.toNat_ofNat, Nat.mod_eq_of_lt hlt]

/-- `Decode` as a quotient and a remainder (R87). -/
theorem decodeBits_toNat (b : Byte) (off : Nat) {w : Nat} (h : w ≤ 8) :
    (decodeBits b off w).toNat = b.toNat / 2 ^ off % 2 ^ w := by
  rw [decodeBits, BitVec.toNat_and, mask_toNat h, Nat.and_two_pow_sub_one_eq_mod, BitVec.toNat_ushiftRight,
    Nat.shiftRight_eq_div_pow]

/-- The bits below the field stay (R86). -/
theorem encodeBits_mod (b v : Byte) {off w : Nat} (h : off + w ≤ 8) :
    (encodeBits b off w v).toNat % 2 ^ off = b.toNat % 2 ^ off := by
  refine Nat.eq_of_testBit_eq fun i => ?_
  simp only [Nat.testBit_mod_two_pow, BitVec.testBit_toNat, encodeBits_getLsbD b off w v h]
  by_cases hi : i < off
  · simp [hi, show ¬off ≤ i by omega]
  · simp [hi]

/-- The field's bits are the value's (R86). -/
theorem encodeBits_div_mod (b v : Byte) {off w : Nat} (h : off + w ≤ 8) :
    (encodeBits b off w v).toNat / 2 ^ off % 2 ^ w = v.toNat % 2 ^ w := by
  refine Nat.eq_of_testBit_eq fun i => ?_
  simp only [Nat.testBit_mod_two_pow, Nat.testBit_div_two_pow, BitVec.testBit_toNat, encodeBits_getLsbD b off w v h]
  by_cases hi : i < w
  · simp [hi, show i + off < off + w by omega]
  · simp [hi]

/-- The bits above the field stay (R86). -/
theorem encodeBits_div (b v : Byte) {off w : Nat} (h : off + w ≤ 8) :
    (encodeBits b off w v).toNat / 2 ^ (off + w) = b.toNat / 2 ^ (off + w) := by
  refine Nat.eq_of_testBit_eq fun i => ?_
  simp only [Nat.testBit_div_two_pow, BitVec.testBit_toNat, encodeBits_getLsbD b off w v h]
  simp [show ¬i + (off + w) < off + w by omega]

/-- A number cut at two places: below `off`, the `w` bits from there, and the rest. -/
theorem eq_low_add_field_add_high (n off w : Nat) :
    n = n % 2 ^ off + 2 ^ off * (n / 2 ^ off % 2 ^ w) + 2 ^ (off + w) * (n / 2 ^ (off + w)) := by
  rw [← Nat.mod_mul, ← Nat.pow_add, Nat.mod_add_div]

/-- `Encode` takes the field's old value out of the byte and puts the new one in (R86). -/
theorem encodeBits_toNat_add (b v : Byte) {off w : Nat} (h : off + w ≤ 8) :
    (encodeBits b off w v).toNat + b.toNat / 2 ^ off % 2 ^ w * 2 ^ off = b.toNat + v.toNat % 2 ^ w * 2 ^ off := by
  have hnew := eq_low_add_field_add_high (encodeBits b off w v).toNat off w
  have hold := eq_low_add_field_add_high b.toNat off w
  rw [encodeBits_mod b v h, encodeBits_div_mod b v h, encodeBits_div b v h] at hnew
  linarith

theorem decodeField_toNat (f : Field) (b : Byte) :
    (decodeField f b).toNat = b.toNat / 2 ^ f.info.off % 2 ^ f.info.width :=
  decodeBits_toNat b _ ((Nat.le_add_left _ _).trans (Field.fits f))

/-- VAL is cut to the field's width (R68). -/
theorem fieldValue_toNat (f : Field) (val : Byte) : (fieldValue f val).toNat = val.toNat % 2 ^ f.info.width := by
  have hw : f.info.width ≤ 8 := (Nat.le_add_left _ _).trans (Field.fits f)
  rw [fieldValue, BitVec.toNat_and, mask_toNat hw, Nat.and_two_pow_sub_one_eq_mod]

/-- `Encode` of VAL at a field's place, in numbers (R68, R86). -/
theorem encodeField_toNat_add (f : Field) (b val : Byte) :
    (encodeField f b (fieldValue f val)).toNat + b.toNat / 2 ^ f.info.off % 2 ^ f.info.width * 2 ^ f.info.off =
      b.toNat + val.toNat % 2 ^ f.info.width * 2 ^ f.info.off := by
  rw [encodeField, encodeBits_toNat_add b _ (Field.fits f), fieldValue_toNat, Nat.mod_mod]

/-- A decoded value is always reported; the status says whether it is in the field's domain (R90, R105). -/
theorem State.respondDecoded_eq (s : State) (f : Field) (v : Byte) :
    s.respondDecoded f v =
      s.respond { status := if inDomain f v = true then .ok else .decodeError, byte := v } := by
  unfold State.respondDecoded
  split <;> rfl

/-- The domain check in the words of R65's column `en`. -/
theorem inDomain_eq_all (f : Field) (v : Byte) :
    inDomain f v = f.info.domain.all fun codes => codes.contains v.toNat := by
  unfold inDomain
  cases f.info.domain <;> rfl

/-! ### Serving the words of the codec operations -/

theorem serve_fieldDecode_word (f : Field) (b : Byte) (x : BitVec 54) (s : State) :
    serve ⟨fieldWord .fieldDecode f b 0, x⟩ s = .next (s.respondDecoded f (decodeField f b)) := by
  simp only [serve, decode_fieldDecode_word, exec, execFieldDecode]

theorem serve_fieldEncode_word (f : Field) (b v : Byte) (x : BitVec 54) (s : State) :
    serve ⟨fieldWord .fieldEncode f b v, x⟩ s = .next (s.respond { byte := encodeField f b (fieldValue f v) }) := by
  simp only [serve, decode_fieldEncode_word, exec, execFieldEncode]

/-! ### The rows of the table -/

/-- The rows of R65 are the fields, in the model's order. -/
theorem fieldTable_map_field : fieldTable.map FieldRow.field = Field.all := rfl

theorem exists_row (f : Field) : ∃ row ∈ fieldTable, row.field = f := by
  rw [← List.mem_map, fieldTable_map_field]
  exact Field.mem_all f

/-- A row's columns are what the model says of its field. -/
def FieldRow.Describes (row : FieldRow) : Prop :=
  Reg.name row.field.reg ++ "." ++ Field.name row.field = row.name ∧
  row.field.reg.code.toNat = row.reg ∧ row.field.index.toNat = row.fld ∧
  row.field.info = ⟨row.off, row.width, row.selfClearing, row.domain⟩

theorem fieldTable_describes : ∀ row ∈ fieldTable, row.Describes := by
  simp only [FieldRow.Describes]
  decide

/-- A pair is unknown exactly if it is in no row (R65). -/
theorem ofCode_eq_none_iff (reg fld : BitVec 3) :
    Field.ofCode reg fld = none ↔ ∀ row ∈ fieldTable, ¬(row.reg = reg.toNat ∧ row.fld = fld.toNat) := by
  rw [Field.ofCode, List.find?_eq_none, ← fieldTable_map_field, List.forall_mem_map]
  refine forall₂_congr fun row hrow => ?_
  obtain ⟨-, hreg, hfld, -⟩ := fieldTable_describes row hrow
  rw [← hreg, ← hfld, BitVec.toNat_inj, BitVec.toNat_inj, Bool.and_eq_true, beq_iff_eq, beq_iff_eq]

/-- Settles O60: each row describes its field, and the words put together from its columns are the field's FIELD_DECODE
and FIELD_ENCODE words. -/
theorem fieldTable_correct : Obligations.FieldTable := by
  refine ⟨rfl, exists_row, ofCode_eq_none_iff, fun row hrow => ?_⟩
  obtain ⟨hname, hreg, hfld, hinfo⟩ := fieldTable_describes row hrow
  refine ⟨hname, hreg, hfld, hinfo, fun s b x => ?_, fun s b v x => ?_⟩
  · have hword : BitVec.ofNat 32 (0x60000000 + row.reg * 2 ^ 25 + row.fld * 2 ^ 22 + b.toNat * 2 ^ 8) =
        fieldWord .fieldDecode row.field b 0 := by
      rw [fieldWord, cmdWord_eq_ofNat, hreg, hfld]
      rfl
    rw [hword, serve_fieldDecode_word, State.respondDecoded_eq]
    refine ⟨_, rfl, rfl, ?_, ?_⟩
    · simp only [decodeField_toNat, hinfo]
    · simp only [inDomain_eq_all, hinfo]
  · have hword : BitVec.ofNat 32 (0x50000000 + row.reg * 2 ^ 25 + row.fld * 2 ^ 22 + b.toNat * 2 ^ 8 + v.toNat) =
        fieldWord .fieldEncode row.field b v := by
      rw [fieldWord, cmdWord_eq_ofNat, hreg, hfld]
      rfl
    rw [hword, serve_fieldEncode_word]
    refine ⟨_, rfl, ?_⟩
    simpa only [hinfo] using encodeField_toNat_add row.field b v

end Sys2Proof.Machine
end

section
/-! PROOF. Which operations need the Transport Port, and which do the same with it and without it (41_shadow.md R76). -/
namespace Sys2Proof.Machine

/-- An operation that issues a transaction is refused when there is no port. -/
theorem refusedFor_of_noPort {p : Params} {i : Instr} (hu : usesPort i = true) (hp : p.transportPresent = false) :
    refusedFor p i = true := by
  simp [refusedFor, hu, hp]

/-- The answer of a decoding operation does not depend on the parameters. -/
theorem State.respondDecoded_setParams (s : State) (p : Params) (f : Field) (v : Byte) :
    State.respondDecoded { s with params := p } f v = { s.respondDecoded f v with params := p } := by
  unfold State.respondDecoded
  split <;> rfl

/-- An operation without a transaction reads no parameter: with other parameters it leaves the same state, but for
them. -/
theorem exec_setParams {i : Instr} (hu : usesPort i = false) {s t : State} (h : exec i s = .next t) (p : Params) :
    exec i { s with params := p } = .next { t with params := p } := by
  cases i with
  | setField f val => cases hu
  | statusGet => cases hu
  | deviceIdGet => cases hu
  | readRaw => cases hu
  | getField f =>
    simp only [exec, execGetField, Host.Outcome.next.injEq] at h ⊢
    subst h
    split
    · rfl
    · exact State.respondDecoded_setParams ..
  | fieldDecode f b =>
    cases h
    exact congrArg Host.Outcome.next (State.respondDecoded_setParams ..)
  | fieldEncode f b val =>
    cases h
    rfl
  | toPhysical rx ry rz =>
    cases h
    rfl

/-- Settles O40: without a port an operation that issues a transaction is refused, and the others read no parameter. -/
theorem portPresenceCheck : Obligations.PortPresenceCheck := by
  refine fun i s => ⟨fun hu hp => exec_refused (refusedFor_of_noPort hu hp), fun hu b => ?_⟩
  obtain ⟨t, ht⟩ := exec_next i s
  have hparams : t.params = s.params := (exec_effect ht).params
  refine ⟨t, ht, ?_⟩
  rw [hparams]
  exact exec_setParams hu ht _

end Sys2Proof.Machine
end

section
/-! PROOF. The codec primitives at every offset and width (42_codec.md R86, R87). -/
namespace Sys2Proof.Machine

/-- Settles O24: `Encode` takes the field's old value out and puts the new one in, and every field fits the byte. -/
theorem encodeMergesField : Obligations.EncodeMergesField :=
  ⟨fun b v _ _ h => encodeBits_toNat_add b v h, Field.fits⟩

/-- Bit `i` of what `Decode` extracts is bit `off + i` of the byte, up to the width; a byte has no bit from 8 on. -/
theorem decodeBits_getLsbD_eq (b : Byte) (off w i : Nat) :
    (decodeBits b off w).getLsbD i = (decide (i < w) && b.getLsbD (off + i)) := by
  rw [decodeBits_getLsbD, Bool.and_comm]
  by_cases h : i < 8
  · simp [h]
  · simp [h, BitVec.getLsbD_of_ge b (off + i) (by omega)]

/-- `Decode` as a quotient and a remainder, also where the width passes the byte's end (R87). -/
theorem decodeBits_toNat_eq (b : Byte) (off w : Nat) :
    (decodeBits b off w).toNat = b.toNat / 2 ^ off % 2 ^ w := by
  refine Nat.eq_of_testBit_eq fun i => ?_
  rw [BitVec.testBit_toNat, decodeBits_getLsbD_eq, Nat.testBit_mod_two_pow, Nat.testBit_div_two_pow,
    BitVec.testBit_toNat, Nat.add_comm]

/-- `Decode` sees the field's bits only (R87). -/
theorem decodeBits_congr {b b' : Byte} {off w : Nat}
    (h : ∀ i, off ≤ i → i < off + w → b.getLsbD i = b'.getLsbD i) : decodeBits b off w = decodeBits b' off w := by
  refine BitVec.eq_of_getLsbD_eq fun i _ => ?_
  rw [decodeBits_getLsbD_eq, decodeBits_getLsbD_eq]
  by_cases hw : i < w
  · rw [h (off + i) (Nat.le_add_right ..) (Nat.add_lt_add_left hw off)]
  · simp [hw]

/-- Settles O25: `Decode` is the shift and the remainder, so bytes that agree on the field decode the same. -/
theorem decodeExtractsField : Obligations.DecodeExtractsField :=
  ⟨decodeBits_toNat_eq, fun _ _ _ _ => decodeBits_congr⟩

end Sys2Proof.Machine
end

section
/-! PROOF. The raw magnitude as a number (43_measurement.md R92). -/
namespace Sys2Proof.Machine

/-- The parts of a raw magnitude do not overlap: it is their concatenation (R92). -/
theorem assemble_eq_append (hi lo : Byte) (e2 : BitVec 2) : assemble hi lo e2 = hi ++ lo ++ e2 := by
  refine BitVec.eq_of_getLsbD_eq fun i _ => ?_
  rw [assemble_getLsbD, BitVec.getLsbD_append, BitVec.getLsbD_append]
  by_cases h2 : i < 2
  · rw [if_pos h2, if_pos h2]
  rw [if_neg h2, if_neg h2]
  by_cases h10 : i < 10
  · rw [if_pos h10, if_pos (by omega)]
  · rw [if_neg h10, if_neg (by omega), show i - 2 - 8 = i - 10 by omega]

/-- Without overlap, the `|` of the parts is their sum (R92). -/
theorem assemble_toNat (hi lo : Byte) (e2 : BitVec 2) :
    (assemble hi lo e2).toNat = hi.toNat * 2 ^ 10 + lo.toNat * 2 ^ 2 + e2.toNat := by
  rw [assemble_eq_append, BitVec.toNat_append, BitVec.toNat_append,
    ← Nat.shiftLeft_add_eq_or_of_lt e2.isLt, ← Nat.shiftLeft_add_eq_or_of_lt lo.isLt]
  simp only [Nat.shiftLeft_eq]
  omega

/-- Settles O29: the magnitude is the sum of its parts, and 18 bits hold it. -/
theorem assembledMagnitude : Obligations.AssembledMagnitude :=
  fun hi lo e2 => ⟨assemble_toNat hi lo e2, Nat.le_of_lt_succ (assemble hi lo e2).isLt⟩

end Sys2Proof.Machine
end

section
/-! PROOF. The response to an instruction, and what decides its status (60_exceptions.md R103 to R105). -/
namespace Sys2Proof.Machine

/-! ### The codes that decoding rejects -/

/-- The instruction decodes cm_freq and finds a reserved code, 4 to 7 (R88, R105). -/
def FindsReservedCode (s : State) (i : Instr) : Prop :=
  (i = .getField .cmFreq ∧ 4 ≤ s.shadow.ctrl2.toNat % 8) ∨ ∃ b : Byte, i = .fieldDecode .cmFreq b ∧ 4 ≤ b.toNat % 8

/-- Decoding a byte fails exactly for cm_freq with a code from 4 to 7 (R29, R88). -/
theorem inDomain_decodeField_eq_false_iff (f : Field) (b : Byte) :
    inDomain f (decodeField f b) = false ↔ f = .cmFreq ∧ 4 ≤ b.toNat % 8 := by
  by_cases hf : f = .cmFreq
  · subst hf
    have hcode : (decodeField .cmFreq b).toNat = b.toNat % 8 := by
      simpa [Field.info] using decodeField_toNat .cmFreq b
    rw [inDomain_cmFreq, hcode, decide_eq_false_iff_not, Nat.not_le, Nat.lt_iff_add_one_le]
    exact (and_iff_right rfl).symm
  · simp [inDomain_of_ne hf, hf]

theorem findsReservedCode_getField_iff {s : State} {f : Field} {c : Ctrl} (hc : f.ctrl? = some c) :
    FindsReservedCode s (.getField f) ↔ inDomain f (decodeField f (s.shadow.get c)) = false := by
  rw [inDomain_decodeField_eq_false_iff]
  have hreg (hf : f = .cmFreq) : s.shadow.ctrl2 = s.shadow.get c := by
    subst hf
    cases hc
    rfl
  simp only [FindsReservedCode, Instr.getField.injEq, reduceCtorEq, false_and, exists_false, or_false]
  exact and_congr_right fun hf => by rw [hreg hf]

theorem findsReservedCode_fieldDecode_iff (s : State) (f : Field) (b : Byte) :
    FindsReservedCode s (.fieldDecode f b) ↔ inDomain f (decodeField f b) = false := by
  simp [FindsReservedCode, inDomain_decodeField_eq_false_iff, and_assoc]

theorem FindsReservedCode.usesPort {s : State} {i : Instr} (h : FindsReservedCode s i) : usesPort i = false := by
  obtain ⟨rfl, -⟩ | ⟨b, rfl, -⟩ := h <;> rfl

theorem FindsReservedCode.not_refused {s : State} {i : Instr} (h : FindsReservedCode s i) :
    refusedFor s.params i = false := by
  obtain ⟨rfl, -⟩ | ⟨b, rfl, -⟩ := h <;> rfl

/-! ### The four answers -/

/-- The response `r` with which an instruction takes `s` to `t`, and the cause of its status: a case per status. -/
inductive Answered (s : State) (i : Instr) (t : State) : Response → Prop where
  | invalidArgument (hr : refusedFor s.params i = true) (ht : t = s.raise .invalidArgument) :
      Answered s i t { status := .invalidArgument }
  | busError (e : Nat) (ev : PortEvent) (hr : refusedFor s.params i = false) (hu : usesPort i = true)
      (ha : s.answer = .err e) (ht : t.trace = s.trace ++ [ev]) : Answered s i t { status := .busError, busErr := e }
  | decodeError (v : Byte) (hc : FindsReservedCode s i) : Answered s i t { status := .decodeError, byte := v }
  | ok (r : Response) (hs : r.status = .ok) (hr : refusedFor s.params i = false)
      (hu : usesPort i = true → ∃ d, s.answer = .ok d) (hc : ¬FindsReservedCode s i) : Answered s i t r

/-- The answer of a decoding operation, which uses no port. -/
theorem answered_respondDecoded {s : State} {i : Instr} {f : Field} {v : Byte} (hr : refusedFor s.params i = false)
    (hu : usesPort i = false) (hc : FindsReservedCode s i ↔ inDomain f v = false) :
    ∃ r, (s.respondDecoded f v).responses = s.responses ++ [r] ∧ Answered s i (s.respondDecoded f v) r := by
  rw [State.respondDecoded_eq]
  refine ⟨_, rfl, ?_⟩
  cases hd : inDomain f v with
  | true => exact .ok _ rfl hr (by simp [hu]) (by simp [hc, hd])
  | false => exact .decodeError v (hc.mpr hd)

theorem State.respond_responses_of_eq {s t : State} (h : t.responses = s.responses) (r : Response) :
    (t.respond r).responses = s.responses ++ [r] := by
  rw [State.respond_responses, h]

/-- The answer after a failed transaction, the one event of the request (R104). -/
theorem answered_failed {s : State} {i : Instr} {e : Nat} (hr : refusedFor s.params i = false)
    (hu : usesPort i = true) (ha : s.answer = .err e) (ev : PortEvent) :
    ∃ r, ((s.consume.record ev).raise (.busError e)).responses = s.responses ++ [r] ∧
      Answered s i ((s.consume.record ev).raise (.busError e)) r :=
  ⟨_, State.respond_responses_of_eq (by simp) _,
    .busError e ev hr hu ha ((consume_record_traffic s ev).raise _).trace⟩

/-- An instruction that is not refused answers OK, or for one of the causes of R104 and R105. -/
theorem Effect.answered {s t : State} {i : Instr} (h : Effect s i t) (hr : refusedFor s.params i = false) :
    ∃ r, t.responses = s.responses ++ [r] ∧ Answered s i t r := by
  cases h with
  | invalid i h => simp [hr] at h
  | failedWrite f val c e hc ha => exact answered_failed hr rfl ha _
  | failedRead i addr n e ha hi =>
    have hu : usesPort i = true := by
      obtain ⟨rfl, -⟩ | ⟨rfl, -⟩ | ⟨rfl, -⟩ := hi <;> rfl
    exact answered_failed hr hu ha _
  | wrote f val c d hc ha hn =>
    exact ⟨_, State.respond_responses_of_eq (by simp) _, .ok _ rfl hr (fun _ => ⟨d, ha⟩) (by simp [FindsReservedCode])⟩
  | swReset val d ha hv =>
    exact ⟨_, State.respond_responses_of_eq (by simp) _, .ok _ rfl hr (fun _ => ⟨d, ha⟩) (by simp [FindsReservedCode])⟩
  | got f c hc => exact answered_respondDecoded hr rfl (findsReservedCode_getField_iff hc)
  | decoded f b => exact answered_respondDecoded hr rfl (findsReservedCode_fieldDecode_iff s f b)
  | readOk i addr n bs r hs hl ha hi =>
    have hc : ¬FindsReservedCode s i := by
      obtain ⟨rfl, -⟩ | ⟨rfl, -⟩ | ⟨rfl, -⟩ := hi <;> simp [FindsReservedCode]
    exact ⟨r, by simp, .ok r hs.1 hr (fun _ => ha) hc⟩
  | encoded f b val => exact ⟨_, rfl, .ok _ rfl hr nofun (by simp [FindsReservedCode])⟩
  | converted rx ry rz r hs => exact ⟨r, rfl, .ok r hs.1 hr nofun (by simp [FindsReservedCode])⟩

/-- Every instruction gives one response, for one of the four causes (R59, R101). -/
theorem exec_answered (i : Instr) (s : State) :
    ∃ (t : State) (r : Response), exec i s = .next t ∧ t.responses = s.responses ++ [r] ∧ Answered s i t r := by
  cases hr : refusedFor s.params i with
  | true => exact ⟨_, _, exec_refused hr, rfl, .invalidArgument hr rfl⟩
  | false =>
    obtain ⟨t, ht⟩ := exec_next i s
    obtain ⟨r, hresp, hans⟩ := (exec_effect ht).answered hr
    exact ⟨t, r, ht, hresp, hans⟩

/-! ### What each status says -/

section
variable {s t : State} {i : Instr} {r : Response}

theorem Answered.status_eq_invalidArgument_iff (h : Answered s i t r) :
    r.status = .invalidArgument ↔ refusedFor s.params i = true := by
  cases h with
  | invalidArgument hr ht => simp [hr]
  | busError e ev hr hu ha ht => simp [hr]
  | decodeError v hc => simp [hc.not_refused]
  | ok r hs hr hu hc => simp [hs, hr]

theorem Answered.status_eq_busError_iff (h : Answered s i t r) :
    r.status = .busError ↔ usesPort i = true ∧ refusedFor s.params i = false ∧ ∃ e, s.answer = .err e := by
  cases h with
  | invalidArgument hr ht => simp [hr]
  | busError e ev hr hu ha ht => simp [hr, hu, ha]
  | decodeError v hc => simp [hc.usesPort]
  | ok r hs hr hu hc =>
    rw [hs]
    refine iff_of_false nofun fun ⟨huse, _, e, herr⟩ => ?_
    obtain ⟨d, hok⟩ := hu huse
    cases hok.symm.trans herr

theorem Answered.status_eq_decodeError_iff (h : Answered s i t r) :
    r.status = .decodeError ↔ FindsReservedCode s i := by
  cases h with
  | invalidArgument hr ht => exact iff_of_false nofun fun hc => by simp [hc.not_refused] at hr
  | busError e ev hr hu ha ht => exact iff_of_false nofun fun hc => by simp [hc.usesPort] at hu
  | decodeError v hc => exact iff_of_true rfl hc
  | ok r hs hr hu hc => exact iff_of_false (by simp [hs]) hc

theorem Answered.eq_raise (h : Answered s i t r) (hs : r.status = .invalidArgument) :
    t = s.raise .invalidArgument := by
  cases h with
  | invalidArgument hr ht => exact ht
  | busError e ev hr hu ha ht => cases hs
  | decodeError v hc => cases hs
  | ok r hok hr hu hc => cases hok.symm.trans hs

/-- A BusError carries the port's error value, after the one event of the failed transaction. -/
theorem Answered.busErr_eq (h : Answered s i t r) (hs : r.status = .busError) :
    s.answer = .err r.busErr ∧ ∃ ev, t.trace = s.trace ++ [ev] := by
  cases h with
  | invalidArgument hr ht => cases hs
  | busError e ev hr hu ha ht => exact ⟨ha, ev, ht⟩
  | decodeError v hc => cases hs
  | ok r hok hr hu hc => cases hok.symm.trans hs

end

/-! ### The statements about one instruction -/

/-- Settles O41: the one case that answers BusError is the failed transaction, whose value the wires keep within the
width. -/
theorem busErrorVerbatim : Obligations.BusErrorVerbatim := by
  intro i s
  obtain ⟨t, r, hexec, hresp, hans⟩ := exec_answered i s
  refine ⟨t, r, hexec, hresp, hans.status_eq_busError_iff, fun hs => ?_⟩
  obtain ⟨herr, htrace⟩ := hans.busErr_eq hs
  exact ⟨herr, State.answer_err_lt herr, htrace⟩

/-- Settles O42: the one case that answers DecodeError is a reserved code of cm_freq. -/
theorem decodeErrorCauses : Obligations.DecodeErrorCauses := by
  intro i s
  obtain ⟨t, r, hexec, hresp, hans⟩ := exec_answered i s
  exact ⟨t, r, hexec, hresp, hans.status_eq_decodeError_iff⟩

end Sys2Proof.Machine
end

section
/-! PROOF. The five causes of InvalidArgument, read off the command word (60_exceptions.md R103). -/
namespace Sys2Proof

/-! ### An accepted word is the encoding of its instruction -/

/-- The operands of an accepted word with a field operand: the field that REG and FLD name (R65, R66). -/
theorem exists_field_of_map_ok {op : Opcode} {cmd : BitVec 32} {g : Field → Instr} {i : Instr}
    (h : (fieldOperand op cmd).map g = .ok i) :
    ∃ f, i = g f ∧ f.reg.code = cmdReg cmd ∧ f.index = cmdFld cmd ∧ op.accepts f = true := by
  cases hf : fieldOperand op cmd with
  | error e => simp [hf, Except.map] at h
  | ok f =>
    rw [hf] at h
    exact ⟨f, (Except.ok.inj h).symm, fieldOperand_ok hf⟩

/-- The decoder gives well-formed instructions only, and an instruction has one command word (R66, R67). -/
theorem wellFormed_and_cmd_of_decode {q : Request} {i : Instr} (h : decode q = .ok i) :
    i.wellFormed = true ∧ q.cmd = (encode i).cmd := by
  obtain ⟨op, hrow, hops⟩ := decode_ok h
  obtain ⟨hop, hrsv, hbyte, hval, hpair⟩ := (matches_row_iff op q.cmd).mp hrow
  have hword := (cmdWord_fields hop hrsv).symm
  cases op with
  | setField =>
    obtain ⟨f, rfl, hreg, hfld, hacc⟩ := exists_field_of_map_ok hops
    exact ⟨hacc, by rw [hword, ← hreg, ← hfld, hbyte rfl]; simp [encode, fieldWord]⟩
  | getField =>
    obtain ⟨f, rfl, hreg, hfld, hacc⟩ := exists_field_of_map_ok hops
    exact ⟨hacc, by rw [hword, ← hreg, ← hfld, hbyte rfl, hval rfl]; rfl⟩
  | fieldEncode =>
    obtain ⟨f, rfl, hreg, hfld, -⟩ := exists_field_of_map_ok hops
    exact ⟨rfl, by rw [hword, ← hreg, ← hfld]; simp [encode, fieldWord]⟩
  | fieldDecode =>
    obtain ⟨f, rfl, hreg, hfld, -⟩ := exists_field_of_map_ok hops
    exact ⟨rfl, by rw [hword, ← hreg, ← hfld, hval rfl]; simp [encode, fieldWord]⟩
  | statusGet | deviceIdGet | readRaw | toPhysical =>
    cases hops
    obtain ⟨hreg, hfld⟩ := hpair rfl
    exact ⟨rfl, by rw [hword, hreg, hfld, hbyte rfl, hval rfl]; rfl⟩

@[simp] theorem cmdOp_encode (i : Instr) : cmdOp (encode i).cmd = i.opcode.code := by
  cases i <;> exact cmdOp_cmdWord ..

/-- REG 1 and FLD 3 name CTRL1.`sw_reset` (R65). -/
theorem Field.eq_swReset_iff (f : Field) : f = .swReset ↔ f.reg.code.toNat = 1 ∧ f.index.toNat = 3 := by
  cases f <;> decide

end Sys2Proof

namespace Sys2Proof.Machine

/-! ### Causes 4 and 5 of an encoded instruction -/

/-- The operations with a transaction, by OP number (R63, R76). -/
theorem usesPort_iff (i : Instr) : usesPort i = true ↔ i.opcode.code.toNat ∈ [1, 3, 4, 7] := by
  cases i <;> simp [usesPort, Instr.opcode, Opcode.code]

theorem portMissing_encode_iff (i : Instr) (p : Params) :
    PortMissing (encode i).cmd p ↔ usesPort i = true ∧ p.transportPresent = false := by
  rw [PortMissing, ← cmdOp_toNat, cmdOp_encode, usesPort_iff]

theorem asksSwReset_setField_iff (f : Field) (val : Byte) :
    asksSwReset (.setField f val) = true ↔ f = .swReset ∧ val.toNat % 2 = 1 := by
  cases f with
  | swReset => simp [asksSwReset, BitVec.getLsbD, Nat.testBit_zero]
  | _ => simp [asksSwReset]

theorem delayMissing_encode_iff (i : Instr) (p : Params) :
    DelayMissing (encode i).cmd p ↔ asksSwReset i = true ∧ p.delayPresent = false := by
  rw [DelayMissing, ← cmdOp_toNat, ← cmdReg_toNat, ← cmdFld_toNat, ← cmdVal_toNat, cmdOp_encode]
  cases i with
  | setField f val =>
    rw [asksSwReset_setField_iff, Field.eq_swReset_iff]
    simp [Instr.opcode, Opcode.code, encode, fieldWord, and_assoc]
  | _ => simp [Instr.opcode, Opcode.code, asksSwReset]

/-- Of the causes of R103, a decoded instruction can only meet 4 and 5. -/
theorem refusedFor_iff_of_decode {q : Request} {i : Instr} (h : decode q = .ok i) (p : Params) :
    refusedFor p i = true ↔ PortMissing q.cmd p ∨ DelayMissing q.cmd p := by
  obtain ⟨hwf, hcmd⟩ := wellFormed_and_cmd_of_decode h
  rw [hcmd, portMissing_encode_iff, delayMissing_encode_iff]
  simp [refusedFor, hwf]

theorem serve_of_decode {q : Request} {i : Instr} (h : decode q = .ok i) (s : State) : serve q s = exec i s := by
  simp only [serve, h]

/-- Settles O38: a legal word answers InvalidArgument for causes 4 and 5 alone, an illegal word always, and both leave
everything but the response. -/
theorem invalidArgumentCauses : Obligations.InvalidArgumentCauses := by
  intro q s
  by_cases hlegal : LegalWord q.cmd
  · obtain ⟨i, hi⟩ := (exists_decode_iff_legalWord q).mpr hlegal
    obtain ⟨hres, hzero, hpair⟩ := hlegal
    obtain ⟨t, r, hexec, hresp, hans⟩ := exec_answered i s
    refine ⟨t, r, (serve_of_decode hi s).trans hexec, hresp, ?_, hans.eq_raise⟩
    rw [hans.status_eq_invalidArgument_iff, refusedFor_iff_of_decode hi]
    simp [hres, hzero, hpair]
  · refine ⟨_, _, serve_illegal hlegal s, rfl, iff_of_true rfl ?_, fun _ => rfl⟩
    unfold LegalWord at hlegal
    tauto

end Sys2Proof.Machine
end

section
/-! PROOF. One step, case by case: what it runs, and what it leaves as it was (20_memory.md R53; 60_exceptions.md
R101; 10_state.md R37). -/
namespace Sys2Proof.Machine

/-! ### What the step runs -/

/-- Settles O13: with no request lined up the step waits. -/
theorem waitChangesNothing : Obligations.WaitChangesNothing := fun _ h => step_idle h

/-- Settles O11: the request presented next is served, and a word that decodes runs its instruction. -/
theorem stepRunsDecoded : Obligations.StepRunsDecoded := fun _ _ _ _ hreq hdec =>
  (step_request hreq).trans (serve_of_decode hdec _)

theorem decode?_eq_some_iff {q : Request} {i : Instr} : decode? q = some i ↔ decode q = .ok i := by
  unfold decode?
  cases decode q <;> simp

/-- Settles O12: a table word stands in front of the waiting requests, in the state it was placed in. -/
theorem placedWordRuns : Obligations.PlacedWordRuns := fun s _ _ _ h =>
  serve_of_decode (decode?_eq_some_iff.mp h) s

/-- Settles O14: an illegal word is rejected when it is served. -/
theorem illegalWordAnswer : Obligations.IllegalWordAnswer := fun _ _ _ hreq hill =>
  (step_request hreq).trans (serve_illegal hill _)

/-! ### One response per request -/

/-- A served request leaves a next state with one more response (R59, R101). -/
theorem serve_answers (q : Request) (s : State) :
    ∃ (t : State) (r : Response), serve q s = .next t ∧ t.requests = s.requests ∧
      t.responses = s.responses ++ [r] := by
  cases hd : decode q with
  | error e =>
    refine ⟨s.raise .invalidArgument, _, ?_, State.raise_requests .., State.raise_responses ..⟩
    simp only [serve, hd]
  | ok i =>
    obtain ⟨t, ht⟩ := exec_next i s
    obtain ⟨r, hr⟩ := (exec_effect ht).responses
    exact ⟨t, r, (serve_of_decode hd s).trans ht, (exec_effect ht).requests, hr⟩

/-- Settles O15: the step serves the first request, and serving gives one response. -/
theorem everyRequestOneResponse : Obligations.EveryRequestOneResponse := by
  intro s q rest hreq
  rw [step_request hreq]
  exact serve_answers q _

/-! ### What every step keeps -/

/-- A property that does not read the waiting requests, that an InvalidArgument keeps, and that every effect of an
instruction keeps, is kept by every step. -/
theorem step_keeps {P : State → Prop} (hrequests : ∀ s rest, P s → P { s with requests := rest })
    (hraise : ∀ s, P s → P (s.raise .invalidArgument)) (heffect : ∀ s i t, Effect s i t → P s → P t)
    {s t : State} (h : step s = .next t) (hs : P s) : P t := by
  obtain ⟨-, rfl⟩ | ⟨q, rest, e, -, -, rfl⟩ | ⟨q, rest, i, -, -, heff⟩ := step_cases h
  · exact hs
  · exact hraise _ (hrequests s rest hs)
  · exact heffect _ i t heff (hrequests s rest hs)

/-- Settles O48: no update that a step makes writes the parameters. -/
theorem parametersAreStatic : Obligations.ParametersAreStatic := fun s _ h =>
  step_keeps (P := fun u => u.params = s.params) (fun _ _ hu => hu) (fun _ hu => hu)
    (fun _ _ _ heff hu => heff.params.trans hu) h rfl

/-- Settles O58: the fields of `State.resetWith`. -/
theorem resetValues : Obligations.ResetValues := fun _ c => ⟨Shadow.get_zero c, rfl, rfl, rfl, rfl⟩

end Sys2Proof.Machine
end

section
/-! PROOF. The encoder and the decoder are inverse (30_encoding.md R62 to R71), and what follows for the words of R74
and R75. -/
namespace Sys2Proof.Machine

/-- The operands that an encoded well-formed instruction decodes to are its own. -/
theorem decodeOperands_encode {i : Instr} (h : i.wellFormed = true) : decodeOperands i.opcode (encode i) = .ok i := by
  cases i with
  | setField f val =>
    simp [decodeOperands, Instr.opcode, encode, fieldOperand_fieldWord (op := .setField) h, Except.map]
  | getField f => simp [decodeOperands, Instr.opcode, encode, fieldOperand_fieldWord (op := .getField) h, Except.map]
  | fieldEncode f b val =>
    simp [decodeOperands, Instr.opcode, encode, fieldOperand_fieldWord (op := .fieldEncode) (f := f) rfl, Except.map]
  | fieldDecode f b =>
    simp [decodeOperands, Instr.opcode, encode, fieldOperand_fieldWord (op := .fieldDecode) (f := f) rfl, Except.map]
  | statusGet | deviceIdGet | readRaw => rfl
  | toPhysical rx ry rz =>
    simp [decodeOperands, Instr.opcode, encode, rawInX_append, rawInY_append, rawInZ_append]

/-- The word of an instruction lies in the instruction's row of the opcode table (R71). -/
theorem matches_encode (i : Instr) : (encode i).cmd &&& i.opcode.maskWord = i.opcode.matchWord := by
  cases i with
  | setField f val => exact Laws.MatchesRow.setField f val
  | getField f => exact Laws.MatchesRow.getField f
  | statusGet => exact Laws.MatchesRow.statusGet
  | deviceIdGet => exact Laws.MatchesRow.deviceIdGet
  | fieldEncode f b val => exact Laws.MatchesRow.fieldEncode f b val
  | fieldDecode f b => exact Laws.MatchesRow.fieldDecode f b
  | readRaw => exact Laws.MatchesRow.readRaw
  | toPhysical rx ry rz => exact Laws.MatchesRow.toPhysical rx ry rz

/-- Settles O2: the word matches the instruction's row, so the operands decode, and they are the instruction's own. -/
theorem decodeOfEncode : Obligations.DecodeOfEncode := fun i h =>
  (decode_of_matches (matches_encode i) (encode i).rawIn).trans (decodeOperands_encode h)

/-- TO_PHYSICAL carries `raw_in` in its three lanes (R70). -/
theorem rawIn_of_decode {q : Request} {i : Instr} (h : decode q = .ok i) (hop : i.opcode = .toPhysical) :
    (encode i).rawIn = q.rawIn := by
  obtain ⟨op, hrow, hops⟩ := decode_ok h
  obtain ⟨-, hcmd⟩ := wellFormed_and_cmd_of_decode h
  obtain ⟨hcode, -⟩ := (matches_row_iff op q.cmd).mp hrow
  obtain rfl : op = .toPhysical := Opcode.code_injective (by rw [← hcode, hcmd, cmdOp_encode, hop])
  cases hops
  exact rawIn_lanes q.rawIn

/-- Settles O3: an accepted word is the word of its instruction, and TO_PHYSICAL carries `raw_in`. -/
theorem encodeOfDecode : Obligations.EncodeOfDecode := fun _ _ h =>
  have ⟨hwf, hcmd⟩ := wellFormed_and_cmd_of_decode h
  ⟨hwf, hcmd.symm, rawIn_of_decode h⟩

/-- Settles O4: a row fixes OP, and the OP codes differ. -/
theorem opcodeRowsDisjoint : Obligations.OpcodeRowsDisjoint := fun cmd a b ha hb =>
  have ⟨hopa, _⟩ := (matches_row_iff a cmd).mp ha
  have ⟨hopb, _⟩ := (matches_row_iff b cmd).mp hb
  Opcode.code_injective (hopa.symm.trans hopb)

/-! ### Rejection by cause -/

theorem decode_of_reservedOp {q : Request} (h : ReservedOp q.cmd) : decode q = .error .reservedOpcode := by
  rw [ReservedOp, ← cmdOp_toNat] at h
  unfold decode
  split
  · rfl
  · rename_i op hop
    rw [← Opcode.ofCode_eq hop] at h
    exact absurd h op.code_not_reserved

/-- A word with an OP in use and a nonzero unused field matches no row (R67). -/
theorem decode_of_not_unusedZero {q : Request} (hres : ¬ReservedOp q.cmd) (h : ¬UnusedZero q.cmd) :
    decode q = .error .mustBeZero := by
  rw [ReservedOp, ← cmdOp_toNat] at hres
  obtain ⟨op, hop⟩ := Opcode.exists_code_eq hres
  have hrow : ¬q.cmd &&& op.maskWord = op.matchWord := fun hm => h (unusedZero_of_matches hm)
  simp [decode, ← hop, hrow]

/-- The operands are rejected for one cause only (R66). -/
theorem decodeOperands_error {op : Opcode} {q : Request} {e : Illegal} (h : decodeOperands op q = .error e) :
    e = .unacceptedPair := by
  have hfield : ∀ {e'}, fieldOperand op q.cmd = .error e' → e' = .unacceptedPair := by
    intro e' he
    unfold fieldOperand at he
    split at he
    · exact (Except.error.inj he).symm
    · split at he
      · cases he
      · exact (Except.error.inj he).symm
  cases hf : fieldOperand op q.cmd with
  | error e' =>
    obtain rfl := hfield hf
    cases op <;> simp_all [decodeOperands, Except.map]
  | ok f => cases op <;> simp [decodeOperands, hf, Except.map] at h

/-- A word that matches its row and is not legal names a pair that its operation rejects. -/
theorem decode_of_unacceptedPair {q : Request} (hres : ¬ReservedOp q.cmd) (hzero : UnusedZero q.cmd)
    (h : UnacceptedPair q.cmd) : decode q = .error .unacceptedPair := by
  cases hd : decode q with
  | ok i => exact absurd h (legalWord_of_decode hd).2.2
  | error e =>
    rw [ReservedOp, ← cmdOp_toNat] at hres
    obtain ⟨op, hop⟩ := Opcode.exists_code_eq hres
    rw [decode_of_matches (matches_of_unusedZero hop hzero) q.rawIn] at hd
    rw [decodeOperands_error hd]

/-- Settles O5: each cause excludes the later ones, and together with the legal words they cover every word. -/
theorem decoderRejectsByCause : Obligations.DecoderRejectsByCause := by
  intro q
  have hlegal := exists_decode_iff_legalWord q
  by_cases hres : ReservedOp q.cmd
  · simp [decode_of_reservedOp hres, hres, LegalWord]
  by_cases hzero : UnusedZero q.cmd
  · by_cases hpair : UnacceptedPair q.cmd
    · simp [decode_of_unacceptedPair hres hzero hpair, hres, hzero, hpair, LegalWord]
    · obtain ⟨i, hi⟩ := hlegal.mpr ⟨hres, hzero, hpair⟩
      simp [hi, hres, hzero, hpair, LegalWord]
  · simp [decode_of_not_unusedZero hres hzero, hres, hzero, LegalWord]

/-! ### The words of R74 and R75 -/

/-- Settles O1: R74's words, decoded. -/
theorem specWordsDecode : Obligations.SpecWordsDecode := by
  unfold Obligations.SpecWordsDecode
  decide

/-- SET_BANDWIDTH's word is that of bandwidth 0 with VAL added (R62, R75). -/
theorem fieldWord_bandwidth (n : Byte) : fieldWord .setField .bandwidth 0 n = 0x12000000 + n.setWidth 32 := by
  rw [fieldWord, cmdWord_eq_ofNat]
  apply BitVec.eq_of_toNat_eq
  have := n.isLt
  simp [Opcode.code, Field.reg, Reg.code, Ctrl.code, Field.index]

theorem readFieldSecond_eq (r : Response) : readFieldSecond r =
    if r.status = .ok then some ⟨0x80000000, r.raw.x ++ r.raw.y ++ r.raw.z⟩ else none := by
  unfold readFieldSecond
  cases r.status <;> rfl

/-- Settles O9: the encoder's words for R75's expansions. -/
theorem pseudoInstructionWords : Obligations.PseudoInstructionWords :=
  ⟨by decide, by decide, by decide, by decide, by decide,
    fun n => congrArg (Request.mk · 0) (fieldWord_bandwidth n), by decide, readFieldSecond_eq⟩

/-! ### The assembler -/

/-- Whatever request the line stands for is the encoding of a well-formed instruction. -/
def EmitsEncodings (o : Option AsmLine) : Prop :=
  ∀ q, o = some (.request q) ∨ o = some (.readField q) → ∃ i : Instr, i.wellFormed = true ∧ encode i = q

theorem emitsEncodings_none : EmitsEncodings none := fun _ h => by simp at h

theorem emitsEncodings_blank : EmitsEncodings (some .blank) := fun _ h => by simp at h

theorem emitsEncodings_emit (i : Instr) : EmitsEncodings (emit i) := by
  intro q h
  unfold emit at h
  split at h
  · exact ⟨i, ‹_›, by simpa using h⟩
  · simp at h

theorem emitsEncodings_readField : EmitsEncodings (some (.readField readFieldFirst)) := fun q h =>
  ⟨.readRaw, rfl, by simpa [readFieldFirst] using h⟩

theorem EmitsEncodings.ite {c : Prop} [Decidable c] {a b : Option AsmLine} (ha : EmitsEncodings a)
    (hb : EmitsEncodings b) : EmitsEncodings (if c then a else b) := by
  split
  · exact ha
  · exact hb

theorem emitsEncodings_bind {α : Type} {o : Option α} {g : α → Option AsmLine} (h : ∀ a, EmitsEncodings (g a)) :
    EmitsEncodings (o.bind g) := by
  cases o with
  | none => exact emitsEncodings_none
  | some a => exact h a

theorem emitsEncodings_asm0 (m : List Char) : EmitsEncodings (asm0 m) :=
  .ite (emitsEncodings_emit _) <| .ite (emitsEncodings_emit _) <| .ite (emitsEncodings_emit _) <|
  .ite (emitsEncodings_emit _) <| .ite (emitsEncodings_emit _) <| .ite (emitsEncodings_emit _) <|
  .ite (emitsEncodings_emit _) <| .ite (emitsEncodings_emit _) <| .ite emitsEncodings_readField emitsEncodings_none

theorem emitsEncodings_asm1 (m a : List Char) : EmitsEncodings (asm1 m a) :=
  .ite (emitsEncodings_bind fun _ => emitsEncodings_emit _)
    (.ite (emitsEncodings_bind fun _ => emitsEncodings_emit _) emitsEncodings_none)

theorem emitsEncodings_asm2 (m a b : List Char) : EmitsEncodings (asm2 m a b) :=
  have operands (g : Field → Byte → Instr) := emitsEncodings_bind (o := fieldOperandText a) fun f =>
    emitsEncodings_bind (o := byteOperand b) fun v => emitsEncodings_emit (g f v)
  .ite (operands .setField) (.ite (operands .fieldDecode) emitsEncodings_none)

theorem emitsEncodings_asm3 (m a b c : List Char) : EmitsEncodings (asm3 m a b c) :=
  .ite
    (emitsEncodings_bind fun _ => emitsEncodings_bind fun _ => emitsEncodings_bind fun _ => emitsEncodings_emit _)
    (.ite
      (emitsEncodings_bind fun _ => emitsEncodings_bind fun _ => emitsEncodings_bind fun _ => emitsEncodings_emit _)
      emitsEncodings_none)

theorem emitsEncodings_assembleLine (line : List Char) : EmitsEncodings (assembleLine line) := by
  unfold assembleLine
  split
  · exact emitsEncodings_blank
  · exact emitsEncodings_asm0 _
  · exact emitsEncodings_asm1 _ _
  · exact emitsEncodings_asm2 _ _ _
  · exact emitsEncodings_asm3 _ _ _ _
  · exact emitsEncodings_none

/-- Settles O10: a line stands for the encoding of a well-formed instruction only, which the decoder gives back. -/
theorem assembledRequestsAreLegal : Obligations.AssembledRequestsAreLegal := by
  intro line q h
  obtain ⟨i, hwf, rfl⟩ := emitsEncodings_assembleLine line q h
  exact ⟨i, hwf, decodeOfEncode i hwf, rfl⟩

end Sys2Proof.Machine
end

section
/-! PROOF. The codec field by field: FIELD_ENCODE, FIELD_DECODE, GET_FIELD, and the laws of R91 (41_shadow.md R80;
42_codec.md R86 to R91). -/
namespace Sys2Proof.Machine

/-! ### The merged byte, bit by bit -/

/-- `Encode` of VAL at a field's place: VAL's low bits in the field, the byte's bits elsewhere (R68, R86). -/
theorem encodeField_fieldValue_getLsbD (f : Field) (b val : Byte) (i : Nat) :
    (encodeField f b (fieldValue f val)).getLsbD i =
      if f.info.off ≤ i ∧ i < f.info.off + f.info.width then val.getLsbD (i - f.info.off) else b.getLsbD i := by
  rw [encodeField_getLsbD]
  split
  · rw [fieldValue_getLsbD, decide_eq_true (by omega), Bool.and_true]
  · rfl

theorem encodeField_getLsbD_inField {f : Field} {i : Nat} (h : InField f i) (b val : Byte) :
    (encodeField f b (fieldValue f val)).getLsbD i = val.getLsbD (i - f.info.off) :=
  (encodeField_fieldValue_getLsbD f b val i).trans (if_pos h)

theorem encodeField_getLsbD_of_not_inField {f : Field} {i : Nat} (h : ¬InField f i) (b v : Byte) :
    (encodeField f b v).getLsbD i = b.getLsbD i :=
  (encodeField_getLsbD f b v i).trans (if_neg h)

/-- Settles O27: the merged byte, which FIELD_ENCODE answers without any check. -/
theorem fieldEncodeMerges : Obligations.FieldEncodeMerges := fun _ f b val =>
  ⟨encodeField f b (fieldValue f val),
    fun _ _ => ⟨fun h => encodeField_getLsbD_inField h b val, fun h => encodeField_getLsbD_of_not_inField h b _⟩, rfl⟩

/-- Values that agree below the field's width are one field value (R68). -/
theorem fieldValue_congr {f : Field} {x y : Byte}
    (h : x.toNat % 2 ^ f.info.width = y.toNat % 2 ^ f.info.width) : fieldValue f x = fieldValue f y :=
  BitVec.eq_of_toNat_eq (by rw [fieldValue_toNat, fieldValue_toNat, h])

/-- Settles O20: SET_FIELD and FIELD_ENCODE use VAL only through the field value. -/
theorem valueIsMaskedToWidth : Obligations.ValueIsMaskedToWidth := by
  intro s f x y b h
  simp only [exec, execSetField, execFieldEncode, fieldValue_congr h, and_self]

/-! ### The decoded value -/

/-- Decoding a byte answers the field's value, DecodeError for a reserved code of cm_freq (R80, R90, R105). -/
theorem respondDecoded_decodeField (s : State) (f : Field) (b : Byte) :
    s.respondDecoded f (decodeField f b) = s.respond
      (if f = .cmFreq ∧ 4 ≤ (decodeField f b).toNat then { status := .decodeError, byte := decodeField f b }
        else { byte := decodeField f b }) := by
  have hcode : f = .cmFreq ∧ 4 ≤ (decodeField f b).toNat ↔ inDomain f (decodeField f b) = false := by
    rw [inDomain_decodeField_eq_false_iff]
    refine and_congr_right ?_
    rintro rfl
    rw [decodeField_toNat]
    simp [Field.info]
  rw [State.respondDecoded_eq]
  cases hd : inDomain f (decodeField f b) <;> simp [hcode, hd]

/-- GET_FIELD decodes the shadow register of the field (R80). -/
theorem exec_getField {f : Field} {c : Ctrl} (hc : f.ctrl? = some c) (s : State) :
    exec (.getField f) s = .next (s.respondDecoded f (decodeField f (s.shadow.get c))) := by
  simp only [exec, execGetField, hc]

/-- Settles O21: GET_FIELD decodes the shadow byte. -/
theorem getFieldReadsShadow : Obligations.GetFieldReadsShadow := fun s f c hc =>
  ⟨decodeField f (s.shadow.get c), decodeField_toNat f _,
    (exec_getField hc s).trans (congrArg Host.Outcome.next (respondDecoded_decodeField s f _))⟩

/-- Settles O28: FIELD_DECODE decodes its operand. -/
theorem fieldDecodeExtracts : Obligations.FieldDecodeExtracts := fun s f b =>
  ⟨decodeField f b, decodeField_toNat f b, congrArg Host.Outcome.next (respondDecoded_decodeField s f b)⟩

/-! ### The laws of R91 -/

/-- What was encoded is decoded, cut to the width (R91 law 1). -/
theorem decodeField_encodeField (f : Field) (b v : Byte) : decodeField f (encodeField f b v) = fieldValue f v := by
  refine BitVec.eq_of_getLsbD_eq fun i hi => ?_
  rw [decodeField_getLsbD, encodeField_getLsbD, fieldValue_getLsbD, decide_eq_true hi, Bool.and_true]
  by_cases hw : i < f.info.width <;> simp [hw]

/-- A field encoded with its own value changes nothing (R91 law 2). -/
theorem encodeField_decodeField (f : Field) (b : Byte) : encodeField f b (decodeField f b) = b := by
  refine BitVec.eq_of_getLsbD_eq fun i hi => ?_
  rw [encodeField_getLsbD]
  split
  · rename_i h
    obtain ⟨hlo, hhi⟩ := h
    rw [decodeField_getLsbD, decide_eq_true (by omega), decide_eq_true (by omega), Nat.add_sub_cancel' hlo]
    simp
  · rfl

/-- Of two fields of a register one ends before the other begins (R65). -/
theorem Field.separate {f g : Field} (hreg : f.reg = g.reg) (hne : f ≠ g) :
    f.info.off + f.info.width ≤ g.info.off ∨ g.info.off + g.info.width ≤ f.info.off := by
  have table : ∀ f ∈ Field.all, ∀ g ∈ Field.all, f.reg = g.reg → f ≠ g →
      f.info.off + f.info.width ≤ g.info.off ∨ g.info.off + g.info.width ≤ f.info.off := by decide
  exact table f (Field.mem_all f) g (Field.mem_all g) hreg hne

/-- No bit is in two fields of a register. -/
theorem Field.eq_of_inField {f g : Field} {i : Nat} (hreg : f.reg = g.reg) (hf : InField f i) (hg : InField g i) :
    f = g := by
  by_contra hne
  obtain ⟨hflo, hfhi⟩ := hf
  obtain ⟨hglo, hghi⟩ := hg
  have := Field.separate hreg hne
  omega

/-- The other fields of the register keep their values (R91 law 3). -/
theorem decodeField_encodeField_of_ne {f g : Field} (hreg : g.reg = f.reg) (hne : g ≠ f) (b v : Byte) :
    decodeField g (encodeField f b v) = decodeField g b :=
  decodeBits_congr fun _ hlo hhi =>
    encodeField_getLsbD_of_not_inField (fun hf => hne (Field.eq_of_inField hreg ⟨hlo, hhi⟩ hf)) b v

/-- The bits of a register that its fields use, field after field (R23 to R27). -/
def usedBits (r : Reg) : List Nat :=
  (Field.all.filter fun f => f.reg == r).flatMap fun f => List.range' f.info.off f.info.width

theorem exists_inField_iff (r : Reg) (i : Nat) : (∃ f : Field, f.reg = r ∧ InField f i) ↔ i ∈ usedBits r := by
  simp [usedBits, InField, List.mem_range'_1, Field.mem_all]

/-- The bits that a register's fields use, in another order. -/
theorem exists_inField_iff_of_perm {r : Reg} {bits : List Nat} (h : (usedBits r).Perm bits) (i : Nat) :
    (∃ f : Field, f.reg = r ∧ InField f i) ↔ i ∈ bits :=
  (exists_inField_iff r i).trans h.mem_iff

/-- Settles O26: the four laws, bit by bit, and the bits of R65's table. -/
theorem codecLaws : Obligations.CodecLaws := by
  refine ⟨fun f b v => ⟨decodeField_encodeField f b v, encodeField_decodeField f b,
      fun g hreg hne => decodeField_encodeField_of_ne hreg hne b v,
      fun i hi => encodeField_getLsbD_of_not_inField hi b v⟩,
    fun f g i => Field.eq_of_inField, ?_, ?_, ?_, ?_, ?_⟩
  all_goals exact exists_inField_iff_of_perm (by decide)

end Sys2Proof.Machine
end

section
/-! PROOF. SET_FIELD: the write, the commit, the settle delay and the response (41_shadow.md R77 to R79, R85; 20_memory.md
R51). -/
namespace Sys2Proof.Machine

/-! ### The byte sent and the byte committed -/

/-- The byte that SET_FIELD sends: the shadow byte with the field merged into it (R79). -/
def sentByte (s : State) (f : Field) (val : Byte) (c : Ctrl) : Byte :=
  encodeField f (s.shadow.get c) (fieldValue f val)

/-- What the shadow keeps of the byte sent: a self-clearing field reads 0 (R77). -/
def committedByte (f : Field) (new : Byte) : Byte :=
  if f.info.selfClearing then new &&& ~~~(fieldBits f) else new

theorem committedByte_of_plain {f : Field} (h : f.info.selfClearing = false) (new : Byte) :
    committedByte f new = new := by
  simp [committedByte, h]

theorem committedByte_getLsbD (f : Field) (new : Byte) {i : Nat} (hi : i < 8) :
    (committedByte f new).getLsbD i =
      if (f.info.off ≤ i ∧ i < f.info.off + f.info.width) ∧ f.info.selfClearing = true then false
      else new.getLsbD i := by
  unfold committedByte
  cases hsc : f.info.selfClearing with
  | false => simp
  | true =>
    rw [if_pos rfl, BitVec.getLsbD_and, BitVec.getLsbD_not, fieldBits_getLsbD]
    by_cases h : f.info.off ≤ i ∧ i < f.info.off + f.info.width
    · simp [hi, h]
    · simp only [h, false_and, if_false, hi, decide_true, Bool.true_and, ← Bool.decide_and, decide_false, Bool.not_false,
        Bool.and_true]

/-- Merging a value again into what the shadow keeps of it sends the same byte (R51). -/
theorem encodeField_committedByte (f : Field) (b v : Byte) :
    encodeField f (committedByte f (encodeField f b v)) v = encodeField f b v := by
  refine BitVec.eq_of_getLsbD_eq fun i hi => ?_
  rw [encodeField_getLsbD, committedByte_getLsbD f _ hi, encodeField_getLsbD]
  split <;> simp [*]

/-- A self-clearing field reads 0 in what the shadow keeps (R84). -/
theorem decodeField_committedByte {f : Field} (h : f.info.selfClearing = true) (new : Byte) :
    decodeField f (committedByte f new) = 0 := by
  refine BitVec.eq_of_getLsbD_eq fun i hi => ?_
  have hfits := Field.fits f
  rw [decodeField_getLsbD]
  by_cases hw : i < f.info.width
  · rw [committedByte_getLsbD f new (by omega), if_pos ⟨by omega, h⟩]
    simp
  · simp [hw]

/-! ### A SET_FIELD that the port accepts -/

/-- The effect of a SET_FIELD whose write succeeds (R77 to R79): `t` is `s` with the byte committed, or with the shadow
zeroed by a software reset, after one write and, for a software reset, the delay. -/
structure SetFieldDone (s : State) (f : Field) (val : Byte) (c : Ctrl) (t : State) : Prop where
  shadow : t.shadow =
    if asksSwReset (.setField f val) && s.params.swResetClearsShadow then Shadow.zero
    else s.shadow.set c (committedByte f (sentByte s f val c))
  responses : t.responses = s.responses ++ [{ byte := sentByte s f val c }]
  traffic : Traffic s t (.write c.address [sentByte s f val c] (.ok []) ::
    if asksSwReset (.setField f val) then [.delay s.params.swResetDelayMs] else [])
  setting : SameSetting s t

/-- A delay is one more event, and no answer of the port. -/
theorem Traffic.settle {s t : State} {es : List PortEvent} (h : Traffic s t es) :
    Traffic s t.settle (es ++ [.delay t.params.swResetDelayMs]) :=
  ⟨by simp [h.trace], by simp [h.answers], by simp [h.draws]⟩

theorem Traffic.commitField {s t : State} {es : List PortEvent} (h : Traffic s t es) (c : Ctrl) (f : Field)
    (new : Byte) : Traffic s (t.commitField c f new) es :=
  ⟨by simp [h.trace], by simp [h.answers], by simp [h.draws]⟩

/-- The state that SET_FIELD leaves after a write that succeeds. -/
theorem setFieldDone_respond (s : State) (f : Field) (val : Byte) (c : Ctrl) :
    SetFieldDone s f val c (
      let s1 := (s.consume.record (.write c.address [sentByte s f val c] (.ok []))).commitField c f (sentByte s f val c)
      (if asksSwReset (.setField f val) then s1.settle else s1).respond { byte := sentByte s f val c }) := by
  have traffic := (consume_record_traffic s (.write c.address [sentByte s f val c] (.ok []))).commitField c f
    (sentByte s f val c)
  cases h : asksSwReset (.setField f val) with
  | false => exact ⟨by simp [h, committedByte], by simp, by simpa [h] using traffic.respond _, by simp, by simp⟩
  | true =>
    exact ⟨by simp [h, committedByte], by simp, by simpa [h] using traffic.settle.respond _, by simp, by simp⟩

/-- SET_FIELD with a port that answers OK (R79). -/
theorem exec_setField_done {s : State} {f : Field} {val : Byte} {c : Ctrl} {d : Vector Byte 7} (hc : f.ctrl? = some c)
    (hp : s.params.transportPresent = true) (ha : s.answer = .ok d)
    (hs : asksSwReset (.setField f val) = true → s.params.delayPresent = true) :
    ∃ t, exec (.setField f val) s = .next t ∧ SetFieldDone s f val c t :=
  ⟨_, exec_setField_ok hc hp ha hs, setFieldDone_respond s f val c⟩

theorem asksSwReset_setField_iff_bit (f : Field) (val : Byte) :
    asksSwReset (.setField f val) = true ↔ f = .swReset ∧ val.getLsbD 0 = true := by
  cases f <;> simp [asksSwReset]

/-- Settles O16: the write sends the merged byte, and the shadow keeps it but for a self-clearing field. -/
theorem setFieldWritesAndCommits : Obligations.SetFieldWritesAndCommits := by
  intro s f val c d hc hp ha hodd
  have hno : asksSwReset (.setField f val) = false := by
    rw [Bool.eq_false_iff, Ne, asksSwReset_setField_iff_bit]
    rintro ⟨hf, hv⟩
    cases (hodd hf).symm.trans hv
  obtain ⟨t, hexec, hshadow, hresp, htraffic, hset⟩ := exec_setField_done (val := val) hc hp ha (by simp [hno])
  simp only [hno, Bool.false_and, Bool.false_eq_true, if_false] at hshadow htraffic
  refine ⟨t, sentByte s f val c, hexec, fun i _ => ⟨fun h => encodeField_getLsbD_inField h _ val,
    fun h => encodeField_getLsbD_of_not_inField h _ _⟩, fun i hi => ?_, fun c' hne => ?_, hresp, ?_, hset⟩
  · rw [hshadow, Shadow.get_set_self, committedByte_getLsbD f _ hi]
    exact ⟨fun h => if_pos h, fun h => if_neg h⟩
  · rw [hshadow, Shadow.get_set_other _ _ hne]
  · rwa [← Ctrl.address_eq]

/-! ### The software reset -/

/-- A software reset sends CTRL1 with bit 7 set (R78). -/
theorem sentByte_swReset (s : State) {val : Byte} (h : val.getLsbD 0 = true) :
    sentByte s .swReset val .ctrl1 = s.shadow.get .ctrl1 ||| 0x80 := by
  have hbit : ∀ b, encodeField .swReset b 1 = b ||| 0x80 := by decide
  have hone : fieldValue .swReset val = 1 := by
    revert h
    revert val
    decide
  rw [sentByte, hone, hbit]

theorem committedByte_swReset (b : Byte) : committedByte .swReset (b ||| 0x80) = b &&& 0x7F := by
  revert b
  decide

/-- Settles O17: the commit clears bit 7 again, and the delay follows the write. -/
theorem softwareResetSettles : Obligations.SoftwareResetSettles := by
  intro s val d hodd hp hd ha
  have hsw : asksSwReset (.setField .swReset val) = true := hodd
  obtain ⟨t, hexec, hshadow, hresp, htraffic, hset⟩ :=
    exec_setField_done (f := .swReset) (c := .ctrl1) rfl hp ha fun _ => hd
  rw [sentByte_swReset s hodd] at hshadow hresp htraffic
  simp only [hsw, Bool.true_and, if_true] at hshadow htraffic
  refine ⟨t, hexec, fun hclears c => ?_, fun hkeeps => ?_, hresp, htraffic, s.params.swResetDelayMs.property, hset⟩
  · rw [hshadow, hclears, if_pos rfl, Shadow.get_zero]
  · rw [hshadow, hkeeps, committedByte_swReset, if_neg Bool.false_ne_true]
    exact ⟨Shadow.get_set_self .., fun c hne => Shadow.get_set_other _ _ hne⟩

/-! ### A write that fails -/

/-- Settles O18: a failed write commits nothing, and an InvalidArgument adds nothing but the response. -/
theorem failedWriteRollsBack : Obligations.FailedWriteRollsBack := by
  refine ⟨fun s f val c e hc hp hs ha => ?_, fun q s t hserve hresp => ?_⟩
  · have hdelay : asksSwReset (.setField f val) = true → s.params.delayPresent = true := by
      rw [asksSwReset_setField_iff_bit]
      exact fun ⟨hf, hv⟩ => hs hf hv
    refine ⟨_, exec_setField_err hc hp ha hdelay, by simp, by simp [Raised.response], ?_, by simp, by simp⟩
    rw [← Ctrl.address_eq]
    exact (consume_record_traffic s _).raise _
  · obtain ⟨t', r, hserve', hresp', -, hinvalid⟩ := invalidArgumentCauses q s
    obtain rfl : t' = t := Host.Outcome.next.inj (hserve'.symm.trans hserve)
    obtain rfl : r = { status := .invalidArgument } := by simpa using hresp'.symm.trans hresp
    rw [hinvalid rfl]
    exact ⟨rfl, rfl, rfl, rfl⟩

/-! ### The same SET_FIELD twice -/

/-- Settles O19: the second write merges the same value into what the first one left. -/
theorem noWriteElision : Obligations.NoWriteElision := by
  refine ⟨fun s t f val c d d' hc hp ha hsw hexec ha' => ?_, fun s t val d d' hodd hp hd hclears ha hexec ha' => ?_⟩
  · obtain ⟨t', hexec', hdone⟩ := exec_setField_done hc hp ha fun h => (hsw h).1
    obtain rfl : t' = t := Host.Outcome.next.inj (hexec'.symm.trans hexec)
    have hkeeps : (asksSwReset (.setField f val) && s.params.swResetClearsShadow) = false := by
      cases h : asksSwReset (.setField f val) with
      | false => rfl
      | true => simp [(hsw h).2]
    have hshadow := hdone.shadow
    rw [hkeeps, if_neg Bool.false_ne_true] at hshadow
    have hparams := hdone.setting.params
    obtain ⟨u, hexecu, hdoneu⟩ := exec_setField_done hc (hparams ▸ hp) ha' fun h => hparams ▸ (hsw h).1
    have hsent : sentByte t' f val c = sentByte s f val c := by
      rw [sentByte, hshadow, Shadow.get_set_self]
      exact encodeField_committedByte f _ _
    refine ⟨u, _, rfl, hexecu, ?_, hdone.traffic.trace, ?_⟩
    · rw [hdoneu.shadow, hparams, hkeeps, if_neg Bool.false_ne_true, hsent, hshadow, Shadow.set_set]
    · rw [hdoneu.traffic.trace, hparams, hsent]
      rfl
  · have hsw : asksSwReset (.setField .swReset val) = true := hodd
    obtain ⟨t', hexec', hdone⟩ := exec_setField_done (f := .swReset) (c := .ctrl1) rfl hp ha fun _ => hd
    obtain rfl : t' = t := Host.Outcome.next.inj (hexec'.symm.trans hexec)
    have hparams := hdone.setting.params
    have hzero : t'.shadow = Shadow.zero := by rw [hdone.shadow, hsw, hclears]; rfl
    obtain ⟨u, hexecu, hdoneu⟩ :=
      exec_setField_done (f := .swReset) (val := val) (c := .ctrl1) rfl (hparams ▸ hp) ha' fun _ => hparams ▸ hd
    have htrace := hdone.traffic.trace
    have htraceu := hdoneu.traffic.trace
    rw [hsw, sentByte_swReset _ hodd] at htrace htraceu
    refine ⟨u, hexecu, ?_, htrace, ?_⟩
    · rw [hdoneu.shadow, hsw, hparams, hclears, hzero]; rfl
    · rw [htraceu, hparams, hzero]; rfl

/-! ### After a SET_FIELD that succeeds -/

/-- A SET_FIELD that is not refused names a control register, and has the port and the delay that it needs. -/
theorem setField_of_not_refused {p : Params} {f : Field} {val : Byte} (hr : refusedFor p (.setField f val) = false) :
    (∃ c, f.ctrl? = some c) ∧ p.transportPresent = true ∧
      (asksSwReset (.setField f val) = true → p.delayPresent = true) := by
  simp only [refusedFor, usesPort, Instr.wellFormed, Bool.or_eq_false_iff, Bool.not_eq_false', Bool.true_and,
    Bool.and_eq_false_imp] at hr
  obtain ⟨⟨hwf, hp⟩, hd⟩ := hr
  exact ⟨Field.ctrl_of_shadowed hwf, hp, hd⟩

/-- A SET_FIELD that answers OK has written. -/
theorem setFieldDone_of_ok {s t : State} {f : Field} {val : Byte} {r : Response}
    (hexec : exec (.setField f val) s = .next t) (hresp : t.responses = s.responses ++ [r]) (hok : r.status = .ok) :
    ∃ c, f.ctrl? = some c ∧ SetFieldDone s f val c t := by
  obtain ⟨t', r', hexec', hresp', hans⟩ := exec_answered (.setField f val) s
  obtain rfl : t' = t := Host.Outcome.next.inj (hexec'.symm.trans hexec)
  obtain rfl : r' = r := by simpa using hresp'.symm.trans hresp
  cases hans with
  | invalidArgument | busError | decodeError => cases hok
  | ok _ _ hr hu _ =>
    obtain ⟨d, ha⟩ := hu rfl
    obtain ⟨⟨c, hc⟩, hp, hd⟩ := setField_of_not_refused hr
    obtain ⟨t'', hexec'', hdone⟩ := exec_setField_done hc hp ha hd
    obtain rfl : t'' = t' := Host.Outcome.next.inj (hexec''.symm.trans hexec)
    exact ⟨c, hc, hdone⟩

/-- The self-clearing fields (R22). -/
theorem selfClearing_of_mem {f : Field} (h : f ∈ [Field.swReset, .tmM, .tmT, .set, .reset]) :
    f.info.selfClearing = true := by
  revert h
  cases f <;> decide

/-- After a SET_FIELD that succeeds on a self-clearing field, the field of the shadow is 0 (R84). -/
theorem SetFieldDone.decodeField_eq_zero {s t : State} {f : Field} {val : Byte} {c : Ctrl}
    (h : SetFieldDone s f val c t) (hsc : f.info.selfClearing = true) : decodeField f (t.shadow.get c) = 0 := by
  rw [h.shadow]
  split
  · rw [Shadow.get_zero, decodeField, decodeBits]
    simp
  · rw [Shadow.get_set_self, decodeField_committedByte hsc]

end Sys2Proof.Machine
end

section
/-! PROOF. What every step keeps: the shadow's bits, the shadow as the trace implies it, the trace, the settle delays and
the responses (10_state.md R20 to R22; 20_memory.md R45, R50; 41_shadow.md R77, R78, R84; 60_exceptions.md R102). -/
namespace Sys2Proof.Machine

/-! ### Which bits the fields of a register cover -/

/-- A bit that a field has is self-clearing if the field is, and is not unlisted (R21, R22). -/
theorem registerBits_of_inField {f : Field} {c : Ctrl} (hc : f.ctrl? = some c) {i : Nat} (hi : InField f i) :
    (strobeBits c).getLsbD i = f.info.selfClearing ∧ (unlistedBits c).getLsbD i = false := by
  have table : ∀ f c, Field.ctrl? f = some c → ∀ i < 8, f.info.off ≤ i → i < f.info.off + f.info.width →
      (strobeBits c).getLsbD i = f.info.selfClearing ∧ (unlistedBits c).getLsbD i = false := by
    intro f c
    cases c <;> cases f <;> decide
  obtain ⟨hlo, hhi⟩ := hi
  exact table f c hc i (hhi.trans_le (Field.fits f)) hlo hhi

theorem and_eq_zero_iff (a m : Byte) : a &&& m = 0 ↔ ∀ i < 8, m.getLsbD i = true → a.getLsbD i = false := by
  rw [BitVec.eq_of_getLsbD_eq_iff]
  refine forall₂_congr fun i _ => ?_
  rw [BitVec.getLsbD_and]
  cases m.getLsbD i <;> simp

theorem and_not_and_self (a m : Byte) : a &&& ~~~m &&& m = 0 := by
  simp [BitVec.and_assoc, BitVec.and_comm (~~~m)]

theorem and_and_eq_zero {a m : Byte} (h : a &&& m = 0) (x : Byte) : a &&& x &&& m = 0 := by
  rw [BitVec.and_assoc, BitVec.and_comm x, ← BitVec.and_assoc, h]
  simp

/-- What the shadow keeps of the byte sent is that byte with every strobe bit 0, if they were 0 before (R20, R77). -/
theorem committedByte_encodeField {f : Field} {c : Ctrl} (hc : f.ctrl? = some c) {b : Byte}
    (hb : b &&& strobeBits c = 0) (v : Byte) :
    committedByte f (encodeField f b v) = encodeField f b v &&& ~~~(strobeBits c) := by
  rw [and_eq_zero_iff] at hb
  refine BitVec.eq_of_getLsbD_eq fun i hi => ?_
  rw [committedByte_getLsbD f _ hi, BitVec.getLsbD_and, BitVec.getLsbD_not, decide_eq_true hi, Bool.true_and]
  by_cases hin : InField f i
  · rw [(registerBits_of_inField hc hin).1]
    cases f.info.selfClearing <;> simp [show f.info.off ≤ i ∧ i < f.info.off + f.info.width from hin]
  · rw [if_neg fun h => hin h.1, encodeField_getLsbD_of_not_inField hin]
    cases hstrobe : (strobeBits c).getLsbD i with
    | false => simp
    | true => simp [hb i hi hstrobe]

/-- A merge leaves the unlisted bits 0 (R21). -/
theorem encodeField_unlisted {f : Field} {c : Ctrl} (hc : f.ctrl? = some c) {b : Byte}
    (hb : b &&& unlistedBits c = 0) (v : Byte) : encodeField f b v &&& unlistedBits c = 0 := by
  rw [and_eq_zero_iff] at hb ⊢
  intro i hi hun
  by_cases hin : InField f i
  · cases (registerBits_of_inField hc hin).2.symm.trans hun
  · rw [encodeField_getLsbD_of_not_inField hin, hb i hi hun]

/-- The write of a SET_FIELD asserts `sw_reset` exactly if the SET_FIELD asks for it (R78). -/
theorem assertsSwReset_encodeField {f : Field} {c : Ctrl} (hc : f.ctrl? = some c) {b : Byte}
    (hb : b &&& strobeBits c = 0) (val : Byte) (bs : List Byte) :
    PortEvent.assertsSwReset (.write c.address [encodeField f b (fieldValue f val)] (.ok bs)) =
      asksSwReset (.setField f val) := by
  rw [assertsSwReset_write, Bool.eq_iff_iff, asksSwReset_setField_iff_bit]
  simp only [Bool.and_eq_true, beq_iff_eq]
  by_cases hf : f = .swReset
  · subst hf
    obtain rfl : c = .ctrl1 := by cases hc; rfl
    rw [encodeField_getLsbD_inField ⟨by decide, by decide⟩]
    simp [Field.info]
  · simp only [hf, false_and, iff_false, not_and]
    rintro rfl
    have hin : ¬InField f 7 := fun hin => by
      have hreg : f.reg = Field.swReset.reg := by revert hc; cases f <;> decide
      exact hf (Field.eq_of_inField hreg hin ⟨by decide, by decide⟩)
    rw [encodeField_getLsbD_of_not_inField hin]
    rw [and_eq_zero_iff] at hb
    simpa using hb 7 (by decide) (by decide)

/-! ### The change of shadow and trace -/

/-- What an instruction does to the shadow and the trace: nothing, one read, one failed write, or a SET_FIELD whose
write succeeds. -/
inductive Change (s t : State) : Prop where
  | silent (hshadow : t.shadow = s.shadow) (htrace : t.trace = s.trace)
  | read (addr : Byte) (n : Nat) (reply : PortReply)
      (hrow : (addr = 0x08 ∧ n = 1) ∨ (addr = 0x2F ∧ n = 1) ∨ (addr = 0x00 ∧ n = 7))
      (hfits : reply.Fits s.params.busErrWidth n) (hshadow : t.shadow = s.shadow)
      (htrace : t.trace = s.trace ++ [.read addr n reply])
  | failedWrite (c : Ctrl) (b : Byte) (e : Nat) (he : e < 2 ^ s.params.busErrWidth) (hshadow : t.shadow = s.shadow)
      (htrace : t.trace = s.trace ++ [.write c.address [b] (.err e)])
  | wrote (f : Field) (val : Byte) (c : Ctrl) (hc : f.ctrl? = some c) (hdone : SetFieldDone s f val c t)

theorem setFieldDone_of_wrote {s : State} {f : Field} {val : Byte} (c : Ctrl)
    (hn : isSwReset f (fieldValue f val) = false) :
    SetFieldDone s f val c (((s.consume.record (.write c.address [sentByte s f val c] (.ok []))).commitField c f
      (sentByte s f val c)).respond { byte := sentByte s f val c }) := by
  rw [isSwReset_fieldValue] at hn
  have h := setFieldDone_respond s f val c
  rw [hn] at h
  exact h

theorem setFieldDone_of_swReset {s : State} {val : Byte} (hv : fieldValue .swReset val = 1) :
    SetFieldDone s .swReset val .ctrl1 (((s.consume.record (.write 0x0A [encodeField .swReset s.shadow.ctrl1 1]
      (.ok []))).commitField .ctrl1 .swReset (encodeField .swReset s.shadow.ctrl1 1)).settle.respond
        { byte := encodeField .swReset s.shadow.ctrl1 1 }) := by
  have hsw : asksSwReset (.setField .swReset val) = true := by
    rw [← isSwReset_fieldValue, isSwReset_iff]
    exact ⟨rfl, hv⟩
  have h := setFieldDone_respond s .swReset val .ctrl1
  rw [hsw, sentByte, hv] at h
  exact h

theorem Effect.change {s t : State} {i : Instr} (h : Effect s i t) : Change s t := by
  cases h with
  | invalid | encoded | converted => exact .silent rfl rfl
  | got | decoded => exact .silent (by simp) (by simp)
  | failedWrite f val c e hc ha => 
    exact .failedWrite c (encodeField f (s.shadow.get c) (fieldValue f val)) e (State.answer_err_lt ha) (by simp)
      (by simp)
  | failedRead i addr n e ha hi =>
    exact .read addr n (.err e) (hi.imp And.right (Or.imp And.right And.right)) (State.answer_err_lt ha) (by simp)
      (by simp)
  | readOk i addr n bs r hr hl ha hi =>
    exact .read addr n (.ok bs) (hi.imp And.right (Or.imp And.right And.right)) hl (by simp) (by simp)
  | wrote f val c d hc ha hn => exact .wrote f val c hc (setFieldDone_of_wrote c hn)
  | swReset val d ha hv => exact .wrote .swReset val .ctrl1 rfl (setFieldDone_of_swReset hv)

/-- A property of the shadow, the trace and the parameters is kept by every step if every change keeps it. -/
theorem step_keeps_of_change {P : Shadow → Params → List PortEvent → Prop}
    (hchange : ∀ s t, Change s t → P s.shadow s.params s.trace → P t.shadow s.params t.trace) {s t : State}
    (h : step s = .next t) (hs : P s.shadow s.params s.trace) : P t.shadow t.params t.trace :=
  step_keeps (P := fun u => P u.shadow u.params u.trace) (fun _ _ hu => hu) (fun _ hu => hu)
    (fun u _ v heff hu => heff.params ▸ hchange u v heff.change hu) h hs

/-! ### The bits of the shadow -/

/-- A condition on each register that 0 meets and that every commit keeps is kept by every change. -/
theorem Change.keeps_registers {s t : State} (h : Change s t) {P : Ctrl → Byte → Prop} (hzero : ∀ c, P c 0)
    (hcommit : ∀ f c b v, Field.ctrl? f = some c → P c b → P c (committedByte f (encodeField f b v)))
    (hs : ∀ c, P c (s.shadow.get c)) : ∀ c, P c (t.shadow.get c) := by
  cases h with
  | silent hshadow | read _ _ _ _ _ hshadow | failedWrite _ _ _ _ hshadow => rwa [hshadow]
  | wrote f val c hc hdone =>
    intro d
    rw [hdone.shadow]
    split
    · rw [Shadow.get_zero]
      exact hzero d
    · rw [Shadow.get_set]
      split
      · rename_i hd
        subst hd
        exact hcommit f d _ _ hc (hs d)
      · exact hs d

theorem strobesClear_zero : Shadow.zero.StrobesClear := fun c => by simp

theorem unlistedClear_zero : Shadow.zero.UnlistedClear := fun c => by simp

theorem Change.strobesClear {s t : State} (h : Change s t) (hs : s.shadow.StrobesClear) : t.shadow.StrobesClear :=
  h.keeps_registers (P := fun c b => b &&& strobeBits c = 0) (fun _ => by simp)
    (fun f c b v hc hb => by rw [committedByte_encodeField hc hb, and_not_and_self]) hs

theorem Change.unlistedClear {s t : State} (h : Change s t) (hs : s.shadow.UnlistedClear) : t.shadow.UnlistedClear :=
  h.keeps_registers (P := fun c b => b &&& unlistedBits c = 0) (fun _ => by simp)
    (fun f c b v hc hb => by
      have hnew := encodeField_unlisted hc hb v
      unfold committedByte
      split
      · exact and_and_eq_zero hnew _
      · exact hnew) hs

theorem step_strobesClear {s t : State} (h : step s = .next t) (hs : s.shadow.StrobesClear) : t.shadow.StrobesClear :=
  step_keeps_of_change (P := fun sh _ _ => sh.StrobesClear) (fun _ _ hch => hch.strobesClear) h hs

/-- Settles O49: a commit clears a self-clearing field, and keeps the strobe bits of the register at 0. -/
theorem selfClearInvariant : Obligations.SelfClearInvariant := by
  refine ⟨fun s t f val r hf hexec hresp hok => ?_, fun s t hs h => step_strobesClear h hs,
    fun p => strobesClear_zero⟩
  have hsc := selfClearing_of_mem hf
  obtain ⟨c, hc, hdone⟩ := setFieldDone_of_ok hexec hresp hok
  have hne : f ≠ .cmFreq := by rintro rfl; cases hsc
  rw [exec_getField hc, respondDecoded_decodeField, hdone.decodeField_eq_zero hsc, if_neg fun h => hne h.1]
  rfl

theorem step_unlistedClear {s t : State} (h : step s = .next t) (hs : s.shadow.UnlistedClear) :
    t.shadow.UnlistedClear :=
  step_keeps_of_change (P := fun sh _ _ => sh.UnlistedClear) (fun _ _ hch => hch.unlistedClear) h hs

/-- Settles O50: a merge leaves the bits that no field covers. -/
theorem unlistedBitsStayZero : Obligations.UnlistedBitsStayZero :=
  ⟨fun _ _ hs h => step_unlistedClear h hs, fun _ => unlistedClear_zero⟩

/-! ### The shadow and the trace -/

/-- The events of a SET_FIELD imply the shadow that it leaves. -/
theorem SetFieldDone.replay {s t : State} {f : Field} {val : Byte} {c : Ctrl} (h : SetFieldDone s f val c t)
    (hc : f.ctrl? = some c) (hclear : s.shadow.StrobesClear)
    (hs : s.shadow = replay s.params.swResetClearsShadow s.trace) :
    t.shadow = Machine.replay s.params.swResetClearsShadow t.trace := by
  have hevent : replayEvent s.params.swResetClearsShadow s.shadow
      (.write c.address [sentByte s f val c] (.ok [])) = t.shadow := by
    rw [replayEvent_write, h.shadow, sentByte, assertsSwReset_encodeField hc (hclear c),
      committedByte_encodeField hc (hclear c), Bool.and_comm]
  rw [h.traffic.trace, replay_append, ← hs, List.foldl_cons, hevent]
  split <;> rfl

theorem Change.replay {s t : State} (h : Change s t) (hclear : s.shadow.StrobesClear)
    (hs : s.shadow = replay s.params.swResetClearsShadow s.trace) :
    t.shadow = Machine.replay s.params.swResetClearsShadow t.trace := by
  cases h with
  | silent hshadow htrace => rw [hshadow, htrace, hs]
  | read addr n reply _ _ hshadow htrace =>
    rw [hshadow, htrace, replay_append, List.foldl_cons, replayEvent_read, List.foldl_nil, hs]
  | failedWrite c b e _ hshadow htrace =>
    rw [hshadow, htrace, replay_append, List.foldl_cons, replayEvent_failed, List.foldl_nil, hs]
  | wrote f val c hc hdone => exact hdone.replay hc hclear hs

/-- Settles O51: the events of each change imply the shadow that it leaves, where the strobe bits are 0. -/
theorem shadowMirrorsTheWrites : Obligations.ShadowMirrorsTheWrites := by
  intro s t hclean hs h
  have hmirror := step_keeps_of_change
    (P := fun sh p tr => sh.StrobesClear ∧ sh = replay p.swResetClearsShadow tr)
    (fun _ _ hch ⟨hc, hr⟩ => ⟨hch.strobesClear hc, hch.replay hc hr⟩) h ⟨hclean.1, hs⟩
  exact ⟨⟨hmirror.1, step_unlistedClear h hclean.2⟩, hmirror.2⟩

/-- The replayed register is the last byte written, strobes 0, if a software reset leaves the shadow (R20). -/
theorem replay_get (c : Ctrl) (tr : List PortEvent) :
    (replay false tr).get c = (lastWritten c tr).elim 0 fun b => b &&& ~~~(strobeBits c) := by
  induction tr using List.reverseRecOn with
  | nil => exact Shadow.get_zero c
  | append_singleton tr e ih =>
    rw [replay_append, List.foldl_cons, List.foldl_nil, lastWritten, List.foldl_append, List.foldl_cons,
      List.foldl_nil, ← lastWritten]
    unfold replayEvent writtenAfter
    split
    · split
      · rename_i d hd
        rw [Bool.false_and, if_neg Bool.false_ne_true, Shadow.get_set, hd]
        by_cases hcd : c = d
        · subst hcd
          simp
        · simp [hcd, Ne.symm hcd, ih]
      · rename_i hd
        simp [hd, ih]
    · exact ih

/-- Settles O52: the invariant's replay, register by register. -/
theorem shadowHoldsLastWrite : Obligations.ShadowHoldsLastWrite := by
  intro s c hinv hkeeps
  have hget : s.shadow.get c = (lastWritten c s.trace).elim 0 fun b => b &&& ~~~(strobeBits c) := by
    rw [hinv.mirror, hkeeps, replay_get]
  exact ⟨fun b hb => by rw [hget, hb]; rfl, fun hnone => by rw [hget, hnone]; rfl⟩

/-! ### The trace -/

/-- A write of one byte to a control register is one of R45's table. -/
theorem legal_write {p : Params} (c : Ctrl) (b : Byte) {reply : PortReply} (h : reply.Fits p.busErrWidth 0) :
    PortEvent.Legal p (.write c.address [b] reply) :=
  ⟨by cases c <;> decide, rfl, h⟩

theorem Change.legal {s t : State} (h : Change s t) (hs : ∀ e ∈ s.trace, e.Legal s.params) :
    ∀ e ∈ t.trace, e.Legal s.params := by
  have grow {es : List PortEvent} (htrace : t.trace = s.trace ++ es) (hes : ∀ e ∈ es, e.Legal s.params) :
      ∀ e ∈ t.trace, e.Legal s.params := by
    rw [htrace]
    exact List.forall_mem_append.mpr ⟨hs, hes⟩
  cases h with
  | silent _ htrace => rwa [htrace]
  | read addr n reply hrow hfits _ htrace => exact grow htrace (List.forall_mem_singleton.mpr ⟨hrow, hfits⟩)
  | failedWrite c b e he _ htrace => exact grow htrace (List.forall_mem_singleton.mpr (legal_write c b he))
  | wrote f val c hc hdone =>
    refine grow hdone.traffic.trace (List.forall_mem_cons.mpr ⟨legal_write c _ rfl, ?_⟩)
    split
    · exact List.forall_mem_singleton.mpr rfl
    · exact List.forall_mem_nil _

/-- Settles O53: every change adds events of R45's table only. -/
theorem traceStaysLegal : Obligations.TraceStaysLegal := fun _ _ hs h =>
  step_keeps_of_change (P := fun _ p tr => ∀ e ∈ tr, e.Legal p) (fun _ _ hch => hch.legal) h hs

/-! ### The settle delay -/

/-- A settled trace stays settled if what is added to it is settled by itself. -/
theorem settledFrom_of_append {ms : Nat} {tr es : List PortEvent} (htr : settledFrom ms false tr = true)
    (hes : settledFrom ms false es = true) : settledFrom ms false (tr ++ es) = true :=
  (settledFrom_append ms tr es false htr).trans hes

/-- The delay of a SET_FIELD stands right after its write, exactly if that write asserts `sw_reset` (R78, R125). -/
theorem settledFrom_setField {f : Field} {c : Ctrl} (hc : f.ctrl? = some c) {s : State}
    (hclear : s.shadow.StrobesClear) (val : Byte) (ms : Nat) :
    settledFrom ms false (.write c.address [sentByte s f val c] (.ok []) ::
      if asksSwReset (.setField f val) then [.delay ms] else []) = true := by
  simp only [settledFrom, sentByte, assertsSwReset_encodeField hc (hclear c)]
  cases asksSwReset (.setField f val) <;> simp [settledFrom, PortEvent.assertsSwReset]

theorem Change.settled {s t : State} (h : Change s t) (hclear : s.shadow.StrobesClear) (hs : Settled s) :
    settledFrom s.params.swResetDelayMs false t.trace = true := by
  cases h with
  | silent _ htrace => rwa [htrace]
  | read addr n reply _ _ _ htrace =>
    rw [htrace]
    exact settledFrom_of_append hs rfl
  | failedWrite c b e _ _ htrace =>
    rw [htrace]
    exact settledFrom_of_append hs rfl
  | wrote f val c hc hdone =>
    rw [hdone.traffic.trace]
    exact settledFrom_of_append hs (settledFrom_setField hc hclear val _)

/-- Settles O54: each change adds a settled run of events, where the strobe bits are 0. -/
theorem softwareResetsStaySettled : Obligations.SoftwareResetsStaySettled := fun _ _ hclear hs h =>
  (step_keeps_of_change
    (P := fun sh p tr => sh.StrobesClear ∧ settledFrom p.swResetDelayMs false tr = true)
    (fun _ _ hch ⟨hc, hset⟩ => ⟨hch.strobesClear hc, hch.settled hc hset⟩) h ⟨hclear, hs⟩).2

/-! ### The responses -/

theorem fits_of_ok {r : Response} (hok : r.status = .ok) (herr : r.busErr = 0) (width : Nat) : r.Fits width := by
  simpa [Response.Fits, hok] using herr

theorem fits_busError {width e : Nat} (he : e < 2 ^ width) : (Raised.busError e).response.Fits width := ⟨rfl, he⟩

/-- A decoded value is answered as it is, or as one of the codes 4 to 7 of cm_freq (R105). -/
theorem exists_respondDecoded_fits (s : State) (f : Field) (b : Byte) (width : Nat) :
    ∃ r : Response, (s.respondDecoded f (decodeField f b)).responses = s.responses ++ [r] ∧ r.Fits width := by
  rw [respondDecoded_decodeField]
  refine ⟨_, rfl, ?_⟩
  split
  · rename_i hcode
    obtain ⟨rfl, hlo⟩ := hcode
    have hhi : (decodeField .cmFreq b).toNat < 2 ^ 3 := by
      rw [decodeField_toNat]
      exact Nat.mod_lt _ (by decide)
    exact ⟨rfl, hlo, Nat.le_of_lt_succ hhi⟩
  · rfl

theorem Effect.exists_response_fits {s t : State} {i : Instr} (h : Effect s i t) :
    ∃ r : Response, t.responses = s.responses ++ [r] ∧ r.Fits s.params.busErrWidth := by
  cases h with
  | invalid i hr => exact ⟨_, rfl, rfl⟩
  | failedWrite f val c e hc ha => exact ⟨_, by simp, fits_busError (State.answer_err_lt ha)⟩
  | failedRead i addr n e ha hi => exact ⟨_, by simp, fits_busError (State.answer_err_lt ha)⟩
  | got f c hc => exact exists_respondDecoded_fits s f _ _
  | decoded f b => exact exists_respondDecoded_fits s f b _
  | wrote | swReset => exact ⟨_, State.respond_responses_of_eq (by simp) _, rfl⟩
  | encoded f b val => exact ⟨_, rfl, rfl⟩
  | readOk i addr n bs r hr hl ha hi => exact ⟨r, by simp, fits_of_ok hr.1 hr.2 _⟩
  | converted rx ry rz r hr => exact ⟨r, rfl, fits_of_ok hr.1 hr.2 _⟩

/-- Settles O55: each effect adds one response, of its outcome's form. -/
theorem responsesStayInForm : Obligations.ResponsesStayInForm := by
  intro s t hs h
  refine step_keeps (P := fun u => ∀ r ∈ u.responses, r.Fits u.params.busErrWidth) (fun _ _ hu => hu) (fun u hu => ?_)
    (fun u i v heff hu => ?_) h hs
  · exact List.forall_mem_append.mpr ⟨hu, List.forall_mem_singleton.mpr rfl⟩
  · obtain ⟨r, hresp, hfits⟩ := heff.exists_response_fits
    rw [heff.params, hresp]
    exact List.forall_mem_append.mpr ⟨hu, List.forall_mem_singleton.mpr hfits⟩

/-! ### The whole -/

/-- Settles O56: the parts of the invariant, each kept by the step. -/
theorem stepKeepsInvariant : Obligations.StepKeepsInvariant := fun s t hinv h =>
  have ⟨hclean, hmirror⟩ := shadowMirrorsTheWrites s t hinv.clean hinv.mirror h
  { clean := hclean
    mirror := hmirror
    legal := traceStaysLegal s t hinv.legal h
    settled := softwareResetsStaySettled s t hinv.clean.1 hinv.settled h
    fits := responsesStayInForm s t hinv.fits h }

/-- Settles O57: the reset shadow is zero, and there is no event and no response yet. -/
theorem resetMeetsInvariant : Obligations.ResetMeetsInvariant := fun _ =>
  { clean := ⟨strobesClear_zero, unlistedClear_zero⟩
    mirror := rfl
    legal := List.forall_mem_nil _
    settled := rfl
    fits := List.forall_mem_nil _ }

end Sys2Proof.Machine
end

section
/-! PROOF. The reads STATUS_GET, DEVICE_ID_GET and READ_RAW, and the conversion of what was read (41_shadow.md R81, R82;
43_measurement.md R92 to R100; 30_encoding.md R75). -/
namespace Sys2Proof.Machine

/-! ### One read -/

/-- The operations that read, with the address and the length of their transaction (R45). -/
def ReadRow (i : Instr) (addr : Byte) (n : Nat) : Prop :=
  (i = .statusGet ∧ addr = 0x08 ∧ n = 1) ∨ (i = .deviceIdGet ∧ addr = 0x2F ∧ n = 1) ∨
    (i = .readRaw ∧ addr = 0x00 ∧ n = 7)

theorem readRow_statusGet : ReadRow .statusGet 0x08 1 := .inl ⟨rfl, rfl, rfl⟩

theorem readRow_deviceIdGet : ReadRow .deviceIdGet 0x2F 1 := .inr (.inl ⟨rfl, rfl, rfl⟩)

theorem readRow_readRaw : ReadRow .readRaw 0x00 7 := .inr (.inr ⟨rfl, rfl, rfl⟩)

/-- A read that fails answers BusError after its one transaction (R104). -/
theorem ReadRow.exec_err {i : Instr} {addr : Byte} {n : Nat} (h : ReadRow i addr n) {s : State} {e : Nat}
    (hp : s.params.transportPresent = true) (ha : s.answer = .err e) :
    exec i s = .next ((s.consume.record (.read addr n (.err e))).raise (.busError e)) := by
  obtain ⟨rfl, rfl, rfl⟩ | ⟨rfl, rfl, rfl⟩ | ⟨rfl, rfl, rfl⟩ := h
  · exact exec_statusGet_err hp ha
  · exact exec_deviceIdGet_err hp ha
  · exact exec_readRaw_err hp ha

/-- What a read that succeeds yields and answers rests on the parameters and the port's answer alone. -/
theorem ReadRow.exists_exec_ok {i : Instr} {addr : Byte} {n : Nat} (h : ReadRow i addr n) {p : Params}
    (hp : p.transportPresent = true) (d : Vector Byte 7) :
    ∃ (bs : List Byte) (r : Response), ∀ s : State, s.params = p → s.answer = .ok d →
      exec i s = .next ((s.consume.record (.read addr n (.ok bs))).respond r) := by
  obtain ⟨rfl, rfl, rfl⟩ | ⟨rfl, rfl, rfl⟩ | ⟨rfl, rfl, rfl⟩ := h
  · exact ⟨_, _, fun s hs ha => exec_statusGet_ok (hs ▸ hp) ha⟩
  · exact ⟨_, _, fun s hs ha => exec_deviceIdGet_ok (hs ▸ hp) ha⟩
  · exact ⟨d.toList, { bytes := d, raw := Axes.ofFn (rawOfBurst p.axisHighByteOffset d) },
      fun s hs ha => hs ▸ exec_readRaw_ok (hs ▸ hp) ha⟩

theorem consume_record_sameSetting (s : State) (e : PortEvent) (r : Response) :
    SameSetting s ((s.consume.record e).respond r) := ⟨by simp, by simp⟩

/-- Settles O31: a failed read, of any of the three operations. -/
theorem failedReadAnswersBusError : Obligations.FailedReadAnswersBusError := fun s e hp ha _ addr n h =>
  ⟨_, ReadRow.exec_err h hp ha, by simp, by simp [Raised.response],
    (consume_record_traffic s (.read addr n (.err e))).raise _, consume_record_sameSetting s _ _⟩

theorem statusFlags_getLsbD (b : Byte) :
    (statusFlags b).getLsbD 2 = b.getLsbD 4 ∧ (statusFlags b).getLsbD 1 = b.getLsbD 1 ∧
      (statusFlags b).getLsbD 0 = b.getLsbD 0 := by
  revert b
  decide

/-- Settles O22: the byte read, and its bits 4, 1 and 0 as flags. -/
theorem statusGetReadsFlags : Obligations.StatusGetReadsFlags := by
  intro s d hp ha
  obtain ⟨hotp, htemp, hmeas⟩ := statusFlags_getLsbD d[0]
  exact ⟨_, _, exec_statusGet_ok hp ha, by simp, State.respond_responses_of_eq (by simp) _, rfl, hotp, htemp, hmeas,
    (consume_record_traffic s _).respond _, consume_record_sameSetting s _ _⟩

/-- Settles O23: the byte read, answered as it comes. -/
theorem deviceIdGetReturnsByte : Obligations.DeviceIdGetReturnsByte := fun s _ hp ha =>
  ⟨_, exec_deviceIdGet_ok hp ha, by simp, State.respond_responses_of_eq (by simp) _,
    (consume_record_traffic s _).respond _, consume_record_sameSetting s _ _⟩

/-! ### READ_RAW -/

/-- The extension group of each axis as a number (R93). -/
theorem extGroup_toNat (ext : Byte) (a : Axis) :
    (extGroup ext a).toNat = ext.toNat / 2 ^ (6 - 2 * a.index.val) % 4 := by
  simp [extGroup, BitVec.extractLsb'_toNat, Nat.shiftRight_eq_div_pow]

/-- One axis's magnitude in numbers (R92 to R94). -/
theorem rawOfBurst_toNat (h : Fin 2) (d : Vector Byte 7) (a : Axis) :
    (rawOfBurst h d a).toNat = 1024 * d[highIndex h a].toNat + 4 * d[lowIndex h a].toNat +
      d[6].toNat / 2 ^ (6 - 2 * a.index.val) % 4 := by
  rw [rawOfBurst, assemble_toNat, extGroup_toNat]
  ring

/-- READ_RAW's response to the seven bytes of the burst (R94). -/
def readRawResponse (h : Fin 2) (d : Vector Byte 7) : Response :=
  { bytes := d, raw := Axes.ofFn (rawOfBurst h d) }

/-- A READ_RAW that succeeds: its response, its one transaction, and nothing else. -/
theorem exec_readRaw_done {s : State} {d : Vector Byte 7} (hp : s.params.transportPresent = true)
    (ha : s.answer = .ok d) :
    ∃ t, exec .readRaw s = .next t ∧ t.shadow = s.shadow ∧
      t.responses = s.responses ++ [readRawResponse s.params.axisHighByteOffset d] ∧
      Traffic s t [.read 0x00 7 (.ok d.toList)] ∧ SameSetting s t :=
  ⟨_, exec_readRaw_ok hp ha, by simp, State.respond_responses_of_eq (by simp) _,
    (consume_record_traffic s _).respond _, consume_record_sameSetting s _ _⟩

/-- Settles O30: the burst's bytes, and each axis's magnitude as the sum of its parts. -/
theorem readRawAssembles : Obligations.ReadRawAssembles := by
  intro s d hp ha
  obtain ⟨t, hexec, hshadow, hresp, htraffic, hset⟩ := exec_readRaw_done hp ha
  have htop : d[6].toNat / 64 % 4 = d[6].toNat / 64 := by
    have := d[6].isLt
    omega
  refine ⟨t, _, hexec, hshadow, hresp, rfl, fun hoff => ?_, fun hoff => ?_, htraffic, hset⟩
  all_goals
    simp only [readRawResponse, Axes.ofFn, hoff, rawOfBurst_toNat]
    rw [← htop]
    exact ⟨rfl, rfl, rfl⟩

/-- An axis's magnitude rests on its two bytes and its extension group (R99). -/
theorem rawOfBurst_congr {h : Fin 2} {d d' : Vector Byte 7} {a : Axis}
    (hbytes : ∀ i : Fin 7, i.val = 2 * a.index.val ∨ i.val = 2 * a.index.val + 1 → d[i] = d'[i])
    (hext : ∀ k, k < 2 → d[6].getLsbD (6 - 2 * a.index.val + k) = d'[6].getLsbD (6 - 2 * a.index.val + k)) :
    rawOfBurst h d a = rawOfBurst h d' a := by
  have hgroup : extGroup d[6] a = extGroup d'[6] a := by
    refine BitVec.eq_of_getLsbD_eq fun k hk => ?_
    rw [extGroup, extGroup, BitVec.getLsbD_extractLsb', BitVec.getLsbD_extractLsb', hext k hk]
  rw [rawOfBurst, rawOfBurst, hgroup, hbytes (highIndex h a) (by simp only [highIndex]; omega),
    hbytes (lowIndex h a) (by simp only [lowIndex]; omega)]

theorem Axes.get_ofFn {α : Type} (g : Axis → α) (a : Axis) : (Axes.ofFn g).get a = g a := by
  cases a <;> rfl

/-- The one response to a READ_RAW that succeeds. -/
theorem readRaw_response {s t : State} {r : Response} {d : Vector Byte 7} (hp : s.params.transportPresent = true)
    (ha : s.answer = .ok d) (hexec : exec .readRaw s = .next t) (hresp : t.responses = s.responses ++ [r]) :
    r = readRawResponse s.params.axisHighByteOffset d := by
  obtain ⟨u, hexecu, -, hrespu, -⟩ := exec_readRaw_done hp ha
  obtain rfl : u = t := Host.Outcome.next.inj (hexecu.symm.trans hexec)
  simpa using hresp.symm.trans hrespu

/-- Settles O36: both magnitudes are the same function of the bytes that agree. -/
theorem lanesIndependent : Obligations.LanesIndependent := by
  intro s s' t t' r r' d d' a hp hp' hoff ha ha' hbytes hext hexec hexec' hresp hresp'
  rw [readRaw_response hp ha hexec hresp, readRaw_response hp' ha' hexec' hresp', hoff]
  simp only [readRawResponse, Axes.get_ofFn, rawOfBurst_congr hbytes hext]

/-! ### The conversion -/

theorem offset_range (r : Raw) : -131072 ≤ offset r ∧ offset r ≤ 131071 := by
  have := r.isLt
  unfold offset
  omega

theorem gaussOf_toInt (r : Raw) : (gaussOf r).toInt = offset r := by
  obtain ⟨hlo, hhi⟩ := offset_range r
  exact BitVec.toInt_ofInt_eq_self (by decide) hlo (Int.lt_add_one_of_le hhi)

theorem utOf_toInt (r : Raw) : (utOf r).toInt = 25 * offset r := by
  obtain ⟨hlo, hhi⟩ := offset_range r
  exact BitVec.toInt_ofInt_eq_self (by decide) (by norm_num; omega) (by norm_num; omega)

/-- Taking away half the range is adding it, so it turns the top bit over (R95). -/
theorem ofInt_offset (r : Raw) : BitVec.ofInt 18 (offset r) = r ^^^ 0x20000 := by
  have hadd : BitVec.ofInt 18 (offset r) = BitVec.ofNat 18 (2 ^ 17 + r.toNat) := by
    apply BitVec.eq_of_toNat_eq
    rw [BitVec.toNat_ofInt, BitVec.toNat_ofNat, offset]
    omega
  have htop : (0x20000 : Raw) = BitVec.twoPow 18 17 := by decide
  rw [hadd, htop]
  refine BitVec.eq_of_getLsbD_eq fun i hi => ?_
  rw [BitVec.getLsbD_ofNat, BitVec.getLsbD_xor, BitVec.getLsbD_twoPow, decide_eq_true hi, Bool.true_and]
  obtain hlt | rfl : i < 17 ∨ i = 17 := by omega
  · rw [Nat.testBit_two_pow_add_gt hlt, BitVec.testBit_toNat]
    simp [show ¬17 = i by omega]
  · rw [Nat.testBit_two_pow_add_eq, BitVec.testBit_toNat]
    simp

/-- Settles O32: the offset, its range and its pattern. -/
theorem offsetBinary : Obligations.OffsetBinary :=
  ⟨fun r => ⟨rfl, (offset_range r).1, (offset_range r).2, ofInt_offset r⟩, rfl⟩

/-- Settles O33: each lane's patterns stand for the exact integers. -/
theorem toPhysicalConverts : Obligations.ToPhysicalConverts := fun _ rx ry rz =>
  ⟨_, rfl, rfl, gaussOf_toInt rx, utOf_toInt rx, gaussOf_toInt ry, utOf_toInt ry, gaussOf_toInt rz, utOf_toInt rz⟩

theorem gaussValue_gaussOf (r : Raw) : gaussValue (gaussOf r) = (offset r : ℚ) / 16384 := by
  rw [gaussValue, fixedValue, gaussOf_toInt]
  norm_num

theorem utValue_utOf (r : Raw) : utValue (utOf r) = 25 * (offset r : ℚ) / 4096 := by
  rw [utValue, fixedValue, utOf_toInt]
  push_cast
  norm_num

theorem offset_cast (r : Raw) : (offset r : ℚ) = (r.toNat : ℚ) - 131072 := by
  simp [offset]

/-- Gauss from the raw magnitude (R96). -/
theorem gaussValue_eq (r : Raw) : gaussValue (gaussOf r) = -8 + (r.toNat : ℚ) / 16384 := by
  rw [gaussValue_gaussOf, offset_cast]
  ring

/-- 1 Gauss is 100 microtesla (R97). -/
theorem utValue_eq (r : Raw) : utValue (utOf r) = 100 * gaussValue (gaussOf r) := by
  rw [gaussValue_gaussOf, utValue_utOf]
  ring

/-- Settles O34: the values and their ranges follow from the offset's. -/
theorem physicalValuesExact : Obligations.PhysicalValuesExact := by
  intro r
  obtain ⟨hlo, hhi⟩ := offset_range r
  have hloQ : (-131072 : ℚ) ≤ offset r := by exact_mod_cast hlo
  have hhiQ : (offset r : ℚ) ≤ 131071 := by exact_mod_cast hhi
  refine ⟨gaussValue_eq r, ?_, ?_, utValue_utOf r, utValue_eq r, by omega, by omega⟩
  · rw [gaussValue_gaussOf]
    linarith
  · rw [gaussValue_gaussOf]
    linarith

/-! ### The floating-point formula (R100) -/

/-- An integer of at most `prec` bits, over a power of two in the format's range, is a number of the format. -/
theorem FloatFormat.holds_div {fmt : FloatFormat} (m : Int) (k : Nat) (hm : |m| < 2 ^ fmt.prec)
    (hlo : fmt.emin ≤ -(k : Int)) (hhi : 0 ≤ fmt.emax) : fmt.Holds ((m : ℚ) / 2 ^ k) :=
  ⟨m, -k, hm, hlo, by omega, by rw [zpow_neg, zpow_natCast, div_eq_mul_inv]⟩

/-- The formats that hold every number the formula meets. -/
structure FloatFormat.Suffices (fmt : FloatFormat) : Prop where
  prec : 24 ≤ fmt.prec
  emin : fmt.emin ≤ -14
  emax : 0 ≤ fmt.emax

theorem binary32_suffices : binary32.Suffices := ⟨by decide, by decide, by decide⟩

theorem binary64_suffices : binary64.Suffices := ⟨by decide, by decide, by decide⟩

/-- A rounding to such a format leaves integers of less than 24 bits, over at most 2^14, as they are. -/
theorem FloatFormat.Suffices.round_eq {fmt : FloatFormat} (hfmt : fmt.Suffices) {round : ℚ → ℚ}
    (hround : fmt.Rounds round) (m : Int) (k : Nat) (hm : |m| < 2 ^ 24) (hk : k ≤ 14) {q : ℚ}
    (hq : q = (m : ℚ) / 2 ^ k) : round q = q := by
  have hwide : (2 : Int) ^ 24 ≤ 2 ^ fmt.prec := pow_le_pow_right₀ (by decide) hfmt.prec
  have hemin := hfmt.emin
  exact hround q (hq ▸ fmt.holds_div m k (hm.trans_le hwide) (by omega) hfmt.emax)

/-- The source's formula is exact (R100 law 2). -/
theorem FloatFormat.Suffices.floatGauss_eq {fmt : FloatFormat} (hfmt : fmt.Suffices) {round : ℚ → ℚ}
    (hround : fmt.Rounds round) (r : Raw) : floatGauss round r = gaussValue (gaussOf r) := by
  have hr := r.isLt
  obtain ⟨hlo, hhi⟩ := offset_range r
  have hconst : round (-8) = -8 := hfmt.round_eq hround (-8) 0 (by decide) (by decide) (by norm_num)
  have hone : round 1 = 1 := hfmt.round_eq hround 1 0 (by decide) (by decide) (by norm_num)
  have hscale : round 16384 = 16384 := hfmt.round_eq hround 16384 0 (by decide) (by decide) (by norm_num)
  have hstep : round (1 / 16384) = 1 / 16384 := hfmt.round_eq hround 1 14 (by decide) (by decide) (by norm_num)
  have hraw : round (r.toNat : ℚ) = r.toNat :=
    hfmt.round_eq hround r.toNat 0 (by rw [abs_lt]; omega) (by decide) (by simp)
  have hproduct : round ((r.toNat : ℚ) * (1 / 16384)) = r.toNat * (1 / 16384) :=
    hfmt.round_eq hround r.toNat 14 (by rw [abs_lt]; omega) (by decide) (by push_cast; ring)
  have hsum : round (-8 + (r.toNat : ℚ) * (1 / 16384)) = -8 + r.toNat * (1 / 16384) :=
    hfmt.round_eq hround (offset r) 14 (by rw [abs_lt]; omega) (by decide) (by rw [offset_cast]; ring)
  rw [floatGauss, hconst, hone, hscale, hstep, hraw, hproduct, hsum, gaussValue_eq]
  ring

/-- So is the formula for microtesla. -/
theorem FloatFormat.Suffices.floatUt_eq {fmt : FloatFormat} (hfmt : fmt.Suffices) {round : ℚ → ℚ}
    (hround : fmt.Rounds round) (r : Raw) : floatUt round r = utValue (utOf r) := by
  obtain ⟨hlo, hhi⟩ := offset_range r
  have hfactor : round 100 = 100 := hfmt.round_eq hround 100 0 (by decide) (by decide) (by norm_num)
  have hvalue : gaussValue (gaussOf r) * 100 = utValue (utOf r) := by rw [utValue_eq, mul_comm]
  rw [floatUt, hfmt.floatGauss_eq hround, hfactor, hvalue]
  exact hfmt.round_eq hround (25 * offset r) 12 (by rw [abs_lt]; omega) (by decide)
    (by rw [utValue_utOf]; push_cast; norm_num)

/-- The raw value with every bit turned over has the opposite offset, less 1 (R100 law 4). -/
theorem offset_complement (r : Raw) : offset (0x3FFFF - r) = -offset r - 1 := by
  have hr := r.isLt
  have hsub : (0x3FFFF - r).toNat = 0x3FFFF - r.toNat := BitVec.toNat_sub_of_le (by bv_omega)
  unfold offset
  omega

/-- Settles O35: every number the formula meets is one of the format, and the rest is arithmetic on the offset. -/
theorem conversionLaws : Obligations.ConversionLaws := by
  refine fun r => ⟨gaussValue_eq r,
    fun round hround => ⟨binary32_suffices.floatGauss_eq hround r, binary32_suffices.floatUt_eq hround r⟩,
    fun round hround => binary64_suffices.floatGauss_eq hround r, fun r' hr' => ?_, offset_complement r⟩
  rw [gaussValue_eq, gaussValue_eq, hr']
  push_cast
  ring

/-! ### READ_FIELD -/

theorem decode_readFieldFirst : decode readFieldFirst = .ok .readRaw := decodeOfEncode .readRaw rfl

/-- READ_RAW, presented in front, answers, and runs in the state it was presented in (R75). -/
theorem step_readFieldFirst (s : State) : step (s.presentNext readFieldFirst) = exec .readRaw s :=
  serve_of_decode decode_readFieldFirst s

/-- TO_PHYSICAL's response to three raw magnitudes (R98). -/
def physicalResponse (v : Axes Raw) : Response :=
  { gauss := ⟨gaussOf v.x, gaussOf v.y, gaussOf v.z⟩, ut := ⟨utOf v.x, utOf v.y, utOf v.z⟩ }

/-- The second request, presented in front, converts (R75, R98). -/
theorem step_toPhysical (t : State) (v : Axes Raw) :
    step (t.presentNext (encode (.toPhysical v.x v.y v.z))) = .next (t.respond (physicalResponse v)) :=
  serve_of_decode (decodeOfEncode (.toPhysical v.x v.y v.z) rfl) t

theorem physicalResponse_toInt (v : Axes Raw) (a : Axis) :
    ((physicalResponse v).gauss.get a).toInt = ((v.get a).toNat : Int) - 131072 ∧
      ((physicalResponse v).ut.get a).toInt = 25 * (((v.get a).toNat : Int) - 131072) := by
  cases a <;> exact ⟨gaussOf_toInt _, utOf_toInt _⟩

/-- The Requester looks at the response to its READ_RAW, and presents the second request if there is one. -/
theorem runReadField_eq {s t : State} {r : Response} (hstep : step (s.presentNext readFieldFirst) = .next t)
    (hresp : t.responses = s.responses ++ [r]) :
    runReadField s = (readFieldSecond r).elim (.next t) fun q => step (t.presentNext q) := by
  simp only [runReadField, hstep, hresp, List.getElem?_concat_length, Option.bind_some]
  cases readFieldSecond r <;> rfl

/-- READ_RAW answers OK only if there is a port and it answers. -/
theorem readRaw_not_ok {s t : State} {r : Response} (hans : Answered s .readRaw t r)
    (hfail : s.params.transportPresent = false ∨ ∃ e, s.answer = .err e) : r.status ≠ .ok := by
  cases hans with
  | invalidArgument | busError | decodeError => nofun
  | ok _ _ hr hu _ =>
    obtain hp | ⟨e, herr⟩ := hfail
    · simp [refusedFor_of_noPort (i := .readRaw) rfl hp] at hr
    · obtain ⟨d, hok⟩ := hu rfl
      cases hok.symm.trans herr

/-- Settles O37: READ_RAW and then TO_PHYSICAL on its magnitudes, or READ_RAW alone. -/
theorem readFieldConvertsWhatWasRead : Obligations.ReadFieldConvertsWhatWasRead := by
  refine ⟨fun s d hp ha => ?_, fun s hfail => ?_⟩
  · obtain ⟨t, hexec, hshadow, hresp, htraffic, hset⟩ := exec_readRaw_done hp ha
    have hfirst := (step_readFieldFirst s).trans hexec
    have hsecond := step_toPhysical t (readRawResponse s.params.axisHighByteOffset d).raw
    refine ⟨t, _, _, _, _, hfirst, hresp, rfl, rfl, hsecond, (runReadField_eq hfirst hresp).trans hsecond, ?_, rfl,
      physicalResponse_toInt _, hshadow, htraffic.respond _, hset.params, hset.requests⟩
    rw [State.respond_responses, hresp, List.append_assoc]
    rfl
  · obtain ⟨t, r, hexec, hresp, hans⟩ := exec_answered .readRaw s
    have hstatus := readRaw_not_ok hans hfail
    have hfirst := (step_readFieldFirst s).trans hexec
    have hsecond : readFieldSecond r = none := by rw [readFieldSecond_eq, if_neg hstatus]
    exact ⟨t, r, hfirst, hresp, hstatus, hsecond, by rw [runReadField_eq hfirst hresp, hsecond]; rfl⟩

end Sys2Proof.Machine
end

section
/-! PROOF. What an instruction's answer and effect depend on, and what an error leaves alone (10_state.md R17;
60_exceptions.md R103, R108). -/
namespace Sys2Proof.Machine

/-! ### Refusals and errors -/

/-- Settles O39: an instruction answers InvalidArgument exactly if it is refused, and then does nothing else. -/
theorem refusedInstructions : Obligations.RefusedInstructions := by
  refine fun i s => ⟨fun hexec => ?_, fun hr => exec_refused hr⟩
  obtain ⟨t, r, hexec', hresp, hans⟩ := exec_answered i s
  obtain rfl := Host.Outcome.next.inj (hexec'.symm.trans hexec)
  obtain rfl : { status := .invalidArgument } = r := by simpa using hresp
  exact hans.status_eq_invalidArgument_iff.mp rfl

/-- The response at the end is the one given. -/
theorem eq_of_respond_responses {s t : State} {r r' : Response} (ht : t.responses = s.responses)
    (h : (t.respond r').responses = s.responses ++ [r]) : r = r' := by
  rw [State.respond_responses_of_eq ht] at h
  simpa using h.symm

/-- What an effect leaves alone when its response is no OK (R108). -/
theorem Effect.of_not_ok {s t : State} {i : Instr} {r : Response} (h : Effect s i t)
    (hresp : t.responses = s.responses ++ [r]) (hr : r.status ≠ .ok) :
    t.shadow = s.shadow ∧ (r.status ≠ .busError → NoTraffic s t) ∧
      (r.status = .busError → ∃ e, Traffic s t [e] ∧ ∀ ms, e ≠ .delay ms) := by
  have decoded {f : Field} {b : Byte}
      (hresp : (s.respondDecoded f (decodeField f b)).responses = s.responses ++ [r]) : r.status ≠ .busError := by
    rw [respondDecoded_decodeField] at hresp
    rw [eq_of_respond_responses rfl hresp]
    split <;> nofun
  cases h with
  | invalid i hi =>
    obtain rfl := eq_of_respond_responses rfl hresp
    exact ⟨rfl, fun _ => ⟨rfl, rfl, rfl⟩, nofun⟩
  | failedWrite f val c e hc ha =>
    obtain rfl := eq_of_respond_responses (by simp) hresp
    exact ⟨by simp, fun hne => absurd rfl hne, fun _ => ⟨_, (consume_record_traffic s _).raise _, nofun⟩⟩
  | failedRead i addr n e ha hi =>
    obtain rfl := eq_of_respond_responses (by simp) hresp
    exact ⟨by simp, fun hne => absurd rfl hne, fun _ => ⟨_, (consume_record_traffic s _).raise _, nofun⟩⟩
  | got f c hc =>
    exact ⟨by simp, fun _ => ⟨by simp, by simp, by simp⟩, fun hbus => absurd hbus (decoded hresp)⟩
  | decoded f b =>
    exact ⟨by simp, fun _ => ⟨by simp, by simp, by simp⟩, fun hbus => absurd hbus (decoded hresp)⟩
  | wrote | swReset | encoded =>
    obtain rfl := eq_of_respond_responses (by simp) hresp
    exact absurd rfl hr
  | readOk i addr n bs r' hok hl ha hi =>
    obtain rfl := eq_of_respond_responses (by simp) hresp
    exact absurd hok.1 hr
  | converted rx ry rz r' hok =>
    obtain rfl := eq_of_respond_responses rfl hresp
    exact absurd hok.1 hr

/-- Settles O43: the effects whose response is no OK. -/
theorem errorsChangeNothing : Obligations.ErrorsChangeNothing := fun _ _ _ _ hexec hresp hr =>
  have heff := exec_effect hexec
  have ⟨hshadow, hquiet, hfailed⟩ := heff.of_not_ok hresp hr
  ⟨hshadow, ⟨heff.params, heff.requests⟩, hquiet, hfailed⟩

/-! ### The shadow -/

theorem Effect.shadow_eq {s t : State} {i : Instr} (h : Effect s i t) (hi : ∀ f val, i ≠ .setField f val) :
    t.shadow = s.shadow := by
  cases h with
  | wrote f val => exact absurd rfl (hi f val)
  | swReset val => exact absurd rfl (hi .swReset val)
  | _ => simp

theorem transportPresent_of_not_refused {p : Params} {i : Instr} (hu : usesPort i = true)
    (hr : refusedFor p i = false) : p.transportPresent = true := by
  rw [← Bool.not_eq_false]
  intro hp
  cases hr.symm.trans (refusedFor_of_noPort hu hp)

/-- The use of an answer and the record of a transaction see nothing of the shadow. -/
theorem consume_record_setShadow (s : State) (sh : Shadow) (e : PortEvent) :
    State.record (State.consume { s with shadow := sh }) e = { s.consume.record e with shadow := sh } := by
  cases h : s.answers <;> simp [State.consume, State.record, h]

/-- A read does the same whatever the shadow holds. -/
theorem ReadRow.exec_setShadow {i : Instr} {addr : Byte} {n : Nat} (h : ReadRow i addr n) {s t : State}
    (hp : s.params.transportPresent = true) (hexec : exec i s = .next t) (sh : Shadow) :
    exec i { s with shadow := sh } = .next { t with shadow := sh } := by
  cases ha : s.answer with
  | err e =>
    obtain rfl := Host.Outcome.next.inj ((h.exec_err hp ha).symm.trans hexec)
    rw [h.exec_err (s := { s with shadow := sh }) hp ha, consume_record_setShadow]
    rfl
  | ok d =>
    obtain ⟨bs, r, hok⟩ := h.exists_exec_ok hp d
    obtain rfl := Host.Outcome.next.inj ((hok s rfl ha).symm.trans hexec)
    rw [hok { s with shadow := sh } rfl ha, consume_record_setShadow]
    rfl

theorem State.respondDecoded_setShadow (s : State) (sh : Shadow) (f : Field) (v : Byte) :
    State.respondDecoded { s with shadow := sh } f v = { s.respondDecoded f v with shadow := sh } := by
  unfold State.respondDecoded
  split <;> rfl

/-- An instruction other than SET_FIELD and GET_FIELD does the same whatever the shadow holds. -/
theorem exec_setShadow {i : Instr} (hset : ∀ f val, i ≠ .setField f val) (hget : ∀ f, i ≠ .getField f)
    {s t : State} (hexec : exec i s = .next t) (sh : Shadow) :
    exec i { s with shadow := sh } = .next { t with shadow := sh } := by
  cases hr : refusedFor s.params i with
  | true =>
    obtain rfl := Host.Outcome.next.inj ((exec_refused hr).symm.trans hexec)
    exact exec_refused hr
  | false =>
    have hport (hu : usesPort i = true) := transportPresent_of_not_refused hu hr
    cases i with
    | setField f val => exact absurd rfl (hset f val)
    | getField f => exact absurd rfl (hget f)
    | statusGet => exact readRow_statusGet.exec_setShadow (hport rfl) hexec sh
    | deviceIdGet => exact readRow_deviceIdGet.exec_setShadow (hport rfl) hexec sh
    | readRaw => exact readRow_readRaw.exec_setShadow (hport rfl) hexec sh
    | fieldDecode f b =>
      cases hexec
      exact congrArg Host.Outcome.next (State.respondDecoded_setShadow ..)
    | fieldEncode f b val | toPhysical rx ry rz =>
      cases hexec
      rfl

/-- Settles O46: the effects that change the shadow are SET_FIELD's, and those that read it SET_FIELD's and
GET_FIELD's. -/
theorem shadowAccess : Obligations.ShadowAccess := by
  refine ⟨fun i s t hexec hne => ?_, fun i s t sh hset hget hexec => exec_setShadow hset hget hexec sh⟩
  by_contra hno
  push Not at hno
  exact hne ((exec_effect hexec).shadow_eq hno)

/-! ### Two machines with one shadow -/

/-- The two machines end with one shadow, after the same response and the same events. -/
def AgreeAfter (i : Instr) (s s' : State) : Prop :=
  ∃ (t t' : State) (r : Response) (es : List PortEvent),
    exec i s = .next t ∧ exec i s' = .next t' ∧ t.shadow = t'.shadow ∧
    t.responses = s.responses ++ [r] ∧ t'.responses = s'.responses ++ [r] ∧
    t.trace = s.trace ++ es ∧ t'.trace = s'.trace ++ es

/-- Both machines only answer. -/
theorem agreeAfter_respond {i : Instr} {s s' : State} (hsh : s.shadow = s'.shadow) (r : Response)
    (h : exec i s = .next (s.respond r)) (h' : exec i s' = .next (s'.respond r)) : AgreeAfter i s s' :=
  ⟨_, _, r, [], h, h', hsh, rfl, rfl, (List.append_nil _).symm, (List.append_nil _).symm⟩

/-- Both machines make one transaction and answer. -/
theorem agreeAfter_record {i : Instr} {s s' : State} (hsh : s.shadow = s'.shadow) (e : PortEvent) (r : Response)
    (h : exec i s = .next ((s.consume.record e).respond r))
    (h' : exec i s' = .next ((s'.consume.record e).respond r)) : AgreeAfter i s s' :=
  ⟨_, _, r, [e], h, h', by simpa using hsh, by simp, by simp, by simp, by simp⟩

theorem setField_agreeAfter {f : Field} {val : Byte} {s s' : State} (hsh : s.shadow = s'.shadow)
    (hparams : s.params = s'.params) (hanswer : s.answer = s'.answer)
    (hr : refusedFor s.params (.setField f val) = false) : AgreeAfter (.setField f val) s s' := by
  obtain ⟨⟨c, hc⟩, hp, hd⟩ := setField_of_not_refused hr
  cases ha : s.answer with
  | err e =>
    have h' := exec_setField_err hc (hparams ▸ hp) (hanswer ▸ ha) (hparams ▸ hd)
    rw [← hsh] at h'
    exact agreeAfter_record hsh _ _ (exec_setField_err hc hp ha hd) h'
  | ok d =>
    obtain ⟨t, hexec, hdone⟩ := exec_setField_done hc hp ha hd
    obtain ⟨t', hexec', hdone'⟩ := exec_setField_done hc (hparams ▸ hp) (hanswer ▸ ha) (hparams ▸ hd)
    have hsent : sentByte s' f val c = sentByte s f val c := by rw [sentByte, sentByte, hsh]
    have hshadow' := hdone'.shadow
    have hresp' := hdone'.responses
    have htrace' := hdone'.traffic.trace
    rw [hsent, ← hparams, ← hsh] at hshadow'
    rw [hsent] at hresp'
    rw [hsent, ← hparams] at htrace'
    exact ⟨t, t', _, _, hexec, hexec', hdone.shadow.trans hshadow'.symm, hdone.responses, hresp',
      hdone.traffic.trace, htrace'⟩

theorem ReadRow.agreeAfter {i : Instr} {addr : Byte} {n : Nat} (hrow : ReadRow i addr n) {s s' : State}
    (hsh : s.shadow = s'.shadow) (hparams : s.params = s'.params) (hanswer : s.answer = s'.answer)
    (hp : s.params.transportPresent = true) : AgreeAfter i s s' := by
  cases ha : s.answer with
  | err e => exact agreeAfter_record hsh _ _ (hrow.exec_err hp ha) (hrow.exec_err (hparams ▸ hp) (hanswer ▸ ha))
  | ok d =>
    obtain ⟨bs, r, hok⟩ := hrow.exists_exec_ok hp d
    exact agreeAfter_record hsh _ _ (hok s rfl ha) (hok s' hparams.symm (hanswer ▸ ha))

/-- Settles O47: each meaning reads the shadow, the parameters and the port's answer, and nothing else. -/
theorem onlyShadowSurvives : Obligations.OnlyShadowSurvives := by
  intro i s s' hsh hparams hanswer
  change AgreeAfter i s s'
  cases hr : refusedFor s.params i with
  | true => exact agreeAfter_respond hsh _ (exec_refused hr) (exec_refused (hparams ▸ hr))
  | false =>
    have hport (hu : usesPort i = true) := transportPresent_of_not_refused hu hr
    cases i with
    | setField f val => exact setField_agreeAfter hsh hparams hanswer hr
    | getField f =>
      have hwf : f.shadowed = true := by simpa [refusedFor, Instr.wellFormed, usesPort, asksSwReset] using hr
      obtain ⟨c, hc⟩ := Field.ctrl_of_shadowed hwf
      have h' := exec_getField hc s'
      rw [← hsh, respondDecoded_decodeField] at h'
      exact agreeAfter_respond hsh _ ((exec_getField hc s).trans (congrArg _ (respondDecoded_decodeField ..))) h'
    | fieldDecode f b =>
      exact agreeAfter_respond hsh _ (congrArg Host.Outcome.next (respondDecoded_decodeField s f b))
        (congrArg Host.Outcome.next (respondDecoded_decodeField s' f b))
    | fieldEncode f b val | toPhysical rx ry rz => exact agreeAfter_respond hsh _ rfl rfl
    | statusGet => exact readRow_statusGet.agreeAfter hsh hparams hanswer (hport rfl)
    | deviceIdGet => exact readRow_deviceIdGet.agreeAfter hsh hparams hanswer (hport rfl)
    | readRaw => exact readRow_readRaw.agreeAfter hsh hparams hanswer (hport rfl)

end Sys2Proof.Machine
end

section
/-! PROOF. GET_FIELD returns what was set last (41_shadow.md R83). -/
namespace Sys2Proof.Machine

/-! ### A field of the shadow after one SET_FIELD -/

/-- A commit keeps the values of the register's other fields (R77, R91 law 3). -/
theorem decodeField_committedByte_of_ne {f g : Field} (hreg : g.reg = f.reg) (hne : g ≠ f) (new : Byte) :
    decodeField g (committedByte f new) = decodeField g new :=
  decodeBits_congr fun _ hlo hhi => by
    rw [committedByte_getLsbD f new (hhi.trans_le (Field.fits g)),
      if_neg fun h => hne (Field.eq_of_inField hreg ⟨hlo, hhi⟩ h.1)]

theorem Field.reg_of_ctrl {f : Field} {c : Ctrl} (h : f.ctrl? = some c) : f.reg = .ctrl c := by
  unfold Field.ctrl? at h
  split at h
  · rename_i d hd
    rw [hd, Option.some.inj h]
  · cases h

theorem decodeField_zero (f : Field) : decodeField f 0 = 0 := by simp [decodeField, decodeBits]

/-- A SET_FIELD that succeeds takes a field that is not self-clearing to the value R83 gives. -/
theorem SetFieldDone.decodeField_eq {s t : State} {f g : Field} {val : Byte} {c d : Ctrl}
    (h : SetFieldDone s g val d t) (hc : f.ctrl? = some c) (hd : g.ctrl? = some d)
    (hplain : f.info.selfClearing = false) :
    decodeField f (t.shadow.get c) =
      expectedAfter s.params.swResetClearsShadow f (decodeField f (s.shadow.get c)) (.setField g val) := by
  rw [h.shadow, expectedAfter, isSwReset_fieldValue, Bool.and_comm s.params.swResetClearsShadow]
  by_cases hgf : g = f
  · subst hgf
    obtain rfl : c = d := Option.some.inj (hc.symm.trans hd)
    have hno : asksSwReset (.setField g val) = false := by
      rw [Bool.eq_false_iff, Ne, asksSwReset_setField_iff_bit]
      rintro ⟨rfl, -⟩
      cases hplain
    rw [hno, Bool.false_and, if_neg Bool.false_ne_true, Shadow.get_set_self, committedByte_of_plain hplain, sentByte,
      decodeField_encodeField, fieldValue_idem, if_pos rfl]
  · rw [if_neg hgf]
    split
    · rw [Shadow.get_zero, decodeField_zero]
    · by_cases hcd : c = d
      · subst hcd
        have hreg : f.reg = g.reg := (Field.reg_of_ctrl hc).trans (Field.reg_of_ctrl hd).symm
        rw [Shadow.get_set_self, decodeField_committedByte_of_ne hreg (Ne.symm hgf), sentByte,
          decodeField_encodeField_of_ne hreg (Ne.symm hgf)]
      · rw [Shadow.get_set_other _ _ hcd]

/-! ### One served request -/

/-- An instruction other than SET_FIELD leaves R83's value. -/
theorem expectedAfter_of_not_setField {i : Instr} (hi : ∀ f val, i ≠ .setField f val) (clears : Bool) (f : Field)
    (v : Byte) : expectedAfter clears f v i = v := by
  cases i with
  | setField g val => exact absurd rfl (hi g val)
  | _ => rfl

/-- With port and delay, and no failed write, an instruction takes the field to R83's value. -/
theorem exec_decodeField {i : Instr} {s t : State} {f : Field} {c : Ctrl} (hwf : i.wellFormed = true)
    (hc : f.ctrl? = some c) (hplain : f.info.selfClearing = false) (hp : s.params.transportPresent = true)
    (hd : s.params.delayPresent = true) (hexec : exec i s = .next t)
    (hwrites : ∀ e ∈ t.trace.drop s.trace.length, e.failedWrite = false) :
    decodeField f (t.shadow.get c) =
      expectedAfter s.params.swResetClearsShadow f (decodeField f (s.shadow.get c)) i := by
  cases i with
  | setField g val =>
    obtain ⟨d, hgd⟩ := Field.ctrl_of_shadowed hwf
    cases ha : s.answer with
    | err e =>
      obtain rfl := Host.Outcome.next.inj ((exec_setField_err hgd hp ha fun _ => hd).symm.trans hexec)
      simp [PortEvent.failedWrite] at hwrites
    | ok a =>
      obtain ⟨t', hexec', hdone⟩ := exec_setField_done hgd hp ha fun _ => hd
      obtain rfl : t' = t := Host.Outcome.next.inj (hexec'.symm.trans hexec)
      exact hdone.decodeField_eq hc hgd hplain
  | _ => rw [(exec_effect hexec).shadow_eq (by simp), expectedAfter_of_not_setField (by simp)]

/-- A served request is rejected by the decoder, or runs the instruction it decodes to. -/
theorem serve_cases {q : Request} {s t : State} (h : serve q s = .next t) :
    (decode? q = none ∧ t = s.raise .invalidArgument) ∨ ∃ i, decode q = .ok i ∧ exec i s = .next t := by
  unfold decode?
  cases hd : decode q with
  | ok i => exact .inr ⟨i, rfl, (serve_of_decode hd s).symm.trans h⟩
  | error e =>
    simp only [serve, hd, Host.Outcome.next.injEq] at h
    exact .inl ⟨rfl, h.symm⟩

/-- R83 for one request. -/
theorem serve_decodeField {q : Request} {s t : State} {f : Field} {c : Ctrl} (hc : f.ctrl? = some c)
    (hplain : f.info.selfClearing = false) (hp : s.params.transportPresent = true)
    (hd : s.params.delayPresent = true) (h : serve q s = .next t)
    (hwrites : ∀ e ∈ t.trace.drop s.trace.length, e.failedWrite = false) :
    decodeField f (t.shadow.get c) = (decode? q).elim (decodeField f (s.shadow.get c))
      (expectedAfter s.params.swResetClearsShadow f (decodeField f (s.shadow.get c))) := by
  obtain ⟨hnone, rfl⟩ | ⟨i, hi, hexec⟩ := serve_cases h
  · rw [hnone]
    rfl
  · rw [decode?_eq_some_iff.mpr hi]
    exact exec_decodeField (wellFormed_and_cmd_of_decode hi).1 hc hplain hp hd hexec hwrites

/-! ### A run of requests -/

/-- A served request keeps the parameters, and the trace only grows. -/
theorem serve_frame {q : Request} {s t : State} (h : serve q s = .next t) :
    t.params = s.params ∧ s.trace <+: t.trace := by
  obtain ⟨-, rfl⟩ | ⟨i, -, hexec⟩ := serve_cases h
  · exact ⟨rfl, [], List.append_nil _⟩
  · obtain ⟨es, htrace, -⟩ := (exec_effect hexec).trace_keepsToUsed
    exact ⟨(exec_effect hexec).params, es, htrace.symm⟩

theorem runRequests_cons {q : Request} {rest : List Request} {s t : State}
    (h : runRequests (q :: rest) s = some t) : ∃ u, serve q s = .next u ∧ runRequests rest u = some t := by
  obtain ⟨u, r, hserve, -⟩ := serve_answers q s
  refine ⟨u, hserve, ?_⟩
  rwa [runRequests, hserve] at h

theorem runRequests_trace_grows {qs : List Request} : ∀ {s t : State}, runRequests qs s = some t →
    s.trace <+: t.trace := by
  induction qs with
  | nil =>
    intro s t h
    cases h
    exact ⟨[], List.append_nil _⟩
  | cons q rest ih =>
    intro s t h
    obtain ⟨u, hserve, hrest⟩ := runRequests_cons h
    exact (serve_frame hserve).2.trans (ih hrest)

/-- R83 over a run without failed writes, from any state. -/
theorem runRequests_decodeField {f : Field} {c : Ctrl} (hc : f.ctrl? = some c) (hplain : f.info.selfClearing = false)
    {p : Params} (hp : p.transportPresent = true) (hd : p.delayPresent = true) {qs : List Request} :
    ∀ {s t : State}, s.params = p → runRequests qs s = some t → (∀ e ∈ t.trace, e.failedWrite = false) →
      decodeField f (t.shadow.get c) =
        (qs.filterMap decode?).foldl (expectedAfter p.swResetClearsShadow f) (decodeField f (s.shadow.get c)) := by
  induction qs with
  | nil =>
    intro s t _ h _
    cases h
    rfl
  | cons q rest ih =>
    intro s t hparams h hwrites
    subst hparams
    obtain ⟨u, hserve, hrest⟩ := runRequests_cons h
    have hone := serve_decodeField hc hplain hp hd hserve fun e he =>
      hwrites e ((runRequests_trace_grows hrest).subset (List.mem_of_mem_drop he))
    rw [ih (serve_frame hserve).1 hrest hwrites, hone, List.filterMap_cons]
    cases decode? q <;> rfl

/-- Settles O59: R83 for one request, and along a run from reset, which GET_FIELD then reads. -/
theorem shadowBusConsistency : Obligations.ShadowBusConsistency := by
  refine ⟨fun q s t f c hc hplain hp hd hserve hwrites => serve_decodeField hc hplain hp hd hserve hwrites,
    fun p answers draws qs t f hf hplain hp hd hrun hwrites => ?_⟩
  obtain ⟨c, hc⟩ := Field.ctrl_of_shadowed hf
  have hvalue := runRequests_decodeField hc hplain hp hd rfl hrun hwrites
  rw [State.resetWith_shadow, Shadow.get_zero, decodeField_zero] at hvalue
  refine ⟨_, _, exec_getField hc t, by rw [State.respondDecoded_eq]; rfl, hvalue⟩

end Sys2Proof.Machine
end
